-- ==== Sys2Proof/Word.lean ====
section
/-! DEFINITION. The word types of the core (00_scope.md R6, R9) and the type of its memories. -/
namespace Sys2Proof

/-- `u8`: a memory cell, a data register (R6). -/
abbrev Byte := BitVec 8

/-- `u16`: a CPU address, the program counter (R6). -/
abbrev Word := BitVec 16

/-- A memory of `w`-bit cells: (index, value) pairs with strictly rising indices and no value 0.
An index that is not listed reads 0 (log 5). `Memory 8` is a list of `Host.Cell`. -/
abbrev Memory (w : Nat) := List (Nat × BitVec w)

end Sys2Proof
end

