-- ==== Sys2Proof/Machine/Bits.lean ====
section
/-! DEFINITION. Bit fields, byte order and sign extension (00_scope.md R9). -/
namespace Sys2Proof

/-- `h:l`, the concatenation of a high byte and a low byte (R9). -/
def mkWord (hi lo : Byte) : Word := hi ++ lo

/-- `w[15:8]`. -/
def hiByte (w : Word) : Byte := w.extractLsb' 8 8

/-- `w[7:0]`. -/
def loByte (w : Word) : Byte := w.extractLsb' 0 8

/-- `zext_16(v)` (R9). -/
def zext16 (v : Byte) : Word := v.setWidth 16

/-- `sext_8(v)` as a 16-bit two's complement value, so that adding it to an address is adding the signed value mod 65536 (R9). -/
def sext16 (v : Byte) : Word := v.signExtend 16

/-- The two addresses lie on different 256-byte pages: `(p & 0xFF00) ≠ (q & 0xFF00)` (40_dispatch.md R106). -/
def pagesDiffer (p q : Word) : Bool := hiByte p != hiByte q

end Sys2Proof
end

