-- ==== Sys2Proof/Syntax.lean ====
section
/-! DEFINITION. The instructions of spec/opcode_table.json as syntax: one constructor per mnemonic, its operand carrying the
addressing mode of the table's row (30_encoding.md R88, R89, R92). -/
namespace Sys2Proof

/-- The addressing modes of Table R89. -/
inductive Mode where
  | imp | acc | imm | zp | zpx | zpy | abs | absx | absy | izx | izy | ind | rel
  deriving DecidableEq, Repr

/-- A memory operand of a load, store, logic or compare instruction: the mode and its operand bytes (Table R91). -/
inductive Loc where
  | zp   (n : Byte)
  | zpx  (n : Byte)
  | zpy  (n : Byte)
  | abs  (a : Word)
  | absx (a : Word)
  | absy (a : Word)
  | izx  (n : Byte)
  | izy  (n : Byte)
  deriving DecidableEq, Repr

/-- A memory operand of a read-modify-write instruction: only these four modes exist (R136, R137, R142 to R145). -/
inductive RmwLoc where
  | zp   (n : Byte)
  | zpx  (n : Byte)
  | abs  (a : Word)
  | absx (a : Word)
  deriving DecidableEq, Repr

/-- An operand that is read: an immediate byte or a memory operand. -/
inductive Src where
  | imm (v : Byte)
  | mem (l : Loc)
  deriving DecidableEq, Repr

/-- The operand of a shift or rotate: A or a memory operand. -/
inductive ShiftDst where
  | acc
  | mem (l : RmwLoc)
  deriving DecidableEq, Repr

/-- The operand of JMP: the target, or the address of the pointer to it (R146). -/
inductive JmpTarget where
  | abs (a : Word)
  | ind (q : Word)
  deriving DecidableEq, Repr

/-- The 57 mnemonics of the opcode table, the mode in the operand (DESIGN CHOICE, log 12). A branch carries its offset byte. -/
inductive Instr where
  -- 41_load_store.md
  | lda (o : Src) | ldx (o : Src) | ldy (o : Src)
  | sta (l : Loc) | stx (l : Loc) | sty (l : Loc)
  | tax | tay | txa | tya | tsx | txs
  -- 42_stack.md
  | pha | php | pla | plp
  -- 43_arith_logic.md
  | adc (o : Src) | sbc (o : Src)
  | and (o : Src) | ora (o : Src) | eor (o : Src)
  | cmp (o : Src) | cpx (o : Src) | cpy (o : Src)
  | bit (l : Loc)
  | inc (l : RmwLoc) | dec (l : RmwLoc)
  | inx | iny | dex | dey
  -- 44_shift.md
  | asl (o : ShiftDst) | lsr (o : ShiftDst) | rol (o : ShiftDst) | ror (o : ShiftDst)
  -- 45_control.md
  | jmp (t : JmpTarget) | jsr (a : Word) | rts
  | bpl (off : Byte) | bmi (off : Byte) | bvc (off : Byte) | bvs (off : Byte)
  | bcc (off : Byte) | bcs (off : Byte) | bne (off : Byte) | beq (off : Byte)
  | brk | rti
  -- 46_flags_misc.md
  | clc | sec | cli | sei | clv | cld | sed | nop
  -- 30_encoding.md R93: an opcode byte with no registered handler
  | unsupported (op : Byte)
  deriving DecidableEq, Repr

/-- The mode of a memory operand. -/
def Loc.mode : Loc → Mode
  | .zp _ => .zp
  | .zpx _ => .zpx
  | .zpy _ => .zpy
  | .abs _ => .abs
  | .absx _ => .absx
  | .absy _ => .absy
  | .izx _ => .izx
  | .izy _ => .izy

/-- A read-modify-write operand as a memory operand. -/
def RmwLoc.loc : RmwLoc → Loc
  | .zp n => .zp n
  | .zpx n => .zpx n
  | .abs a => .abs a
  | .absx a => .absx a

/-- The mode of a read operand. -/
def Src.mode : Src → Mode
  | .imm _ => .imm
  | .mem l => l.mode

/-- The mode of a shift operand. -/
def ShiftDst.mode : ShiftDst → Mode
  | .acc => .acc
  | .mem l => l.loc.mode

/-- The mode of a JMP operand. -/
def JmpTarget.mode : JmpTarget → Mode
  | .abs _ => .abs
  | .ind _ => .ind

/-- The addressing mode of an instruction: "each opcode maps to exactly one mode" (R88). An unsupported opcode has the mode
`not-implemented` of Table R89, which has no length. -/
def Instr.mode : Instr → Option Mode
  | .lda o | .ldx o | .ldy o | .adc o | .sbc o | .and o | .ora o | .eor o | .cmp o | .cpx o | .cpy o => some o.mode
  | .sta l | .stx l | .sty l | .bit l => some l.mode
  | .inc l | .dec l => some l.loc.mode
  | .asl o | .lsr o | .rol o | .ror o => some o.mode
  | .jmp t => some t.mode
  | .jsr _ => some .abs
  | .bpl _ | .bmi _ | .bvc _ | .bvs _ | .bcc _ | .bcs _ | .bne _ | .beq _ => some .rel
  | .tax | .tay | .txa | .tya | .tsx | .txs | .pha | .php | .pla | .plp | .inx | .iny | .dex | .dey
  | .rts | .brk | .rti | .clc | .sec | .cli | .sei | .clv | .cld | .sed | .nop => some .imp
  | .unsupported _ => none

end Sys2Proof
end

