-- ==== Sys2Proof/Decode.lean ====
section
/-! DEFINITION. The decoder and the encoder: the opcode map of 30_encoding.md Table R92, the lengths of Table R89 and the
little-endian operand bytes of R88 and R43. -/
namespace Sys2Proof

/-- The length of an instruction of a mode in bytes (Table R89). -/
def Mode.length : Mode → Nat
  | .imp | .acc => 1
  | .imm | .zp | .zpx | .zpy | .izx | .izy | .rel => 2
  | .abs | .absx | .absy | .ind => 3

/-- The bytes an instruction occupies. Of an unsupported opcode only the opcode byte is fetched (R93). -/
def Instr.length (i : Instr) : Nat :=
  match i.mode with
  | some m => m.length
  | none => 1

/-- Table R92: the instruction that the opcode byte `op` selects, with operand bytes `b1` and `b2` (unused where its mode has
fewer). The 105 bytes marked `--` are unsupported (R93). -/
def decodeOp (op b1 b2 : Byte) : Instr :=
  let w := mkWord b2 b1
  match op.toNat with
  | 0x00 => .brk
  | 0x01 => .ora (.mem (.izx b1))
  | 0x05 => .ora (.mem (.zp b1))
  | 0x06 => .asl (.mem (.zp b1))
  | 0x08 => .php
  | 0x09 => .ora (.imm b1)
  | 0x0A => .asl .acc
  | 0x0D => .ora (.mem (.abs w))
  | 0x0E => .asl (.mem (.abs w))
  | 0x10 => .bpl b1
  | 0x11 => .ora (.mem (.izy b1))
  | 0x15 => .ora (.mem (.zpx b1))
  | 0x16 => .asl (.mem (.zpx b1))
  | 0x18 => .clc
  | 0x19 => .ora (.mem (.absy w))
  | 0x1D => .ora (.mem (.absx w))
  | 0x1E => .asl (.mem (.absx w))
  | 0x20 => .jsr w
  | 0x21 => .and (.mem (.izx b1))
  | 0x24 => .bit (.zp b1)
  | 0x25 => .and (.mem (.zp b1))
  | 0x26 => .rol (.mem (.zp b1))
  | 0x28 => .plp
  | 0x29 => .and (.imm b1)
  | 0x2A => .rol .acc
  | 0x2C => .bit (.abs w)
  | 0x2D => .and (.mem (.abs w))
  | 0x2E => .rol (.mem (.abs w))
  | 0x30 => .bmi b1
  | 0x31 => .and (.mem (.izy b1))
  | 0x35 => .and (.mem (.zpx b1))
  | 0x36 => .rol (.mem (.zpx b1))
  | 0x38 => .sec
  | 0x39 => .and (.mem (.absy w))
  | 0x3D => .and (.mem (.absx w))
  | 0x3E => .rol (.mem (.absx w))
  | 0x40 => .rti
  | 0x41 => .eor (.mem (.izx b1))
  | 0x45 => .eor (.mem (.zp b1))
  | 0x46 => .lsr (.mem (.zp b1))
  | 0x48 => .pha
  | 0x49 => .eor (.imm b1)
  | 0x4A => .lsr .acc
  | 0x4C => .jmp (.abs w)
  | 0x4D => .eor (.mem (.abs w))
  | 0x4E => .lsr (.mem (.abs w))
  | 0x50 => .bvc b1
  | 0x51 => .eor (.mem (.izy b1))
  | 0x55 => .eor (.mem (.zpx b1))
  | 0x56 => .lsr (.mem (.zpx b1))
  | 0x58 => .cli
  | 0x59 => .eor (.mem (.absy w))
  | 0x5D => .eor (.mem (.absx w))
  | 0x5E => .lsr (.mem (.absx w))
  | 0x60 => .rts
  | 0x61 => .adc (.mem (.izx b1))
  | 0x65 => .adc (.mem (.zp b1))
  | 0x66 => .ror (.mem (.zp b1))
  | 0x68 => .pla
  | 0x69 => .adc (.imm b1)
  | 0x6A => .ror .acc
  | 0x6C => .jmp (.ind w)
  | 0x6D => .adc (.mem (.abs w))
  | 0x6E => .ror (.mem (.abs w))
  | 0x70 => .bvs b1
  | 0x71 => .adc (.mem (.izy b1))
  | 0x75 => .adc (.mem (.zpx b1))
  | 0x76 => .ror (.mem (.zpx b1))
  | 0x78 => .sei
  | 0x79 => .adc (.mem (.absy w))
  | 0x7D => .adc (.mem (.absx w))
  | 0x7E => .ror (.mem (.absx w))
  | 0x81 => .sta (.izx b1)
  | 0x84 => .sty (.zp b1)
  | 0x85 => .sta (.zp b1)
  | 0x86 => .stx (.zp b1)
  | 0x88 => .dey
  | 0x8A => .txa
  | 0x8C => .sty (.abs w)
  | 0x8D => .sta (.abs w)
  | 0x8E => .stx (.abs w)
  | 0x90 => .bcc b1
  | 0x91 => .sta (.izy b1)
  | 0x94 => .sty (.zpx b1)
  | 0x95 => .sta (.zpx b1)
  | 0x96 => .stx (.zpy b1)
  | 0x98 => .tya
  | 0x99 => .sta (.absy w)
  | 0x9A => .txs
  | 0x9D => .sta (.absx w)
  | 0xA0 => .ldy (.imm b1)
  | 0xA1 => .lda (.mem (.izx b1))
  | 0xA2 => .ldx (.imm b1)
  | 0xA4 => .ldy (.mem (.zp b1))
  | 0xA5 => .lda (.mem (.zp b1))
  | 0xA6 => .ldx (.mem (.zp b1))
  | 0xA8 => .tay
  | 0xA9 => .lda (.imm b1)
  | 0xAA => .tax
  | 0xAC => .ldy (.mem (.abs w))
  | 0xAD => .lda (.mem (.abs w))
  | 0xAE => .ldx (.mem (.abs w))
  | 0xB0 => .bcs b1
  | 0xB1 => .lda (.mem (.izy b1))
  | 0xB4 => .ldy (.mem (.zpx b1))
  | 0xB5 => .lda (.mem (.zpx b1))
  | 0xB6 => .ldx (.mem (.zpy b1))
  | 0xB8 => .clv
  | 0xB9 => .lda (.mem (.absy w))
  | 0xBA => .tsx
  | 0xBC => .ldy (.mem (.absx w))
  | 0xBD => .lda (.mem (.absx w))
  | 0xBE => .ldx (.mem (.absy w))
  | 0xC0 => .cpy (.imm b1)
  | 0xC1 => .cmp (.mem (.izx b1))
  | 0xC4 => .cpy (.mem (.zp b1))
  | 0xC5 => .cmp (.mem (.zp b1))
  | 0xC6 => .dec (.zp b1)
  | 0xC8 => .iny
  | 0xC9 => .cmp (.imm b1)
  | 0xCA => .dex
  | 0xCC => .cpy (.mem (.abs w))
  | 0xCD => .cmp (.mem (.abs w))
  | 0xCE => .dec (.abs w)
  | 0xD0 => .bne b1
  | 0xD1 => .cmp (.mem (.izy b1))
  | 0xD5 => .cmp (.mem (.zpx b1))
  | 0xD6 => .dec (.zpx b1)
  | 0xD8 => .cld
  | 0xD9 => .cmp (.mem (.absy w))
  | 0xDD => .cmp (.mem (.absx w))
  | 0xDE => .dec (.absx w)
  | 0xE0 => .cpx (.imm b1)
  | 0xE1 => .sbc (.mem (.izx b1))
  | 0xE4 => .cpx (.mem (.zp b1))
  | 0xE5 => .sbc (.mem (.zp b1))
  | 0xE6 => .inc (.zp b1)
  | 0xE8 => .inx
  | 0xE9 => .sbc (.imm b1)
  | 0xEA => .nop
  | 0xEC => .cpx (.mem (.abs w))
  | 0xED => .sbc (.mem (.abs w))
  | 0xEE => .inc (.abs w)
  | 0xF0 => .beq b1
  | 0xF1 => .sbc (.mem (.izy b1))
  | 0xF5 => .sbc (.mem (.zpx b1))
  | 0xF6 => .inc (.zpx b1)
  | 0xF8 => .sed
  | 0xF9 => .sbc (.mem (.absy w))
  | 0xFD => .sbc (.mem (.absx w))
  | 0xFE => .inc (.absx w)
  | _ => .unsupported op

/-- The length of the instruction that an opcode byte selects, from the opcode byte alone (R89). -/
def opcodeLength (op : Byte) : Nat := (decodeOp op 0 0).length

/-- The opcode byte is one of the 151 of Table R92. -/
def documented (op : Byte) : Bool :=
  match decodeOp op 0 0 with
  | .unsupported _ => false
  | _ => true

/-- Why a list of bytes holds no instruction: it is empty, or it ends before the last operand byte of its opcode
(DESIGN CHOICE, log 19). -/
inductive DecodeError where
  | noBytes
  | truncated (op : Byte)
  deriving DecidableEq, Repr

/-- The first instruction of a list of bytes, and the bytes after it. -/
def decode (bytes : List Byte) : Except DecodeError (Instr × List Byte) :=
  match bytes with
  | [] => .error .noBytes
  | op :: rest =>
    match opcodeLength op, rest with
    | 1, _ => .ok (decodeOp op 0 0, rest)
    | 2, b1 :: rest' => .ok (decodeOp op b1 0, rest')
    | 3, b1 :: b2 :: rest' => .ok (decodeOp op b1 b2, rest')
    | _, _ => .error (.truncated op)

/-- The instruction the decoder reads from an instruction whose bits are `w`, first byte lowest, every bit from `nbits` on
being 0. -/
def decodeTableWord (nbits w : Nat) : Option Instr :=
  let v := w % 2 ^ nbits
  match decode [BitVec.ofNat 8 v, BitVec.ofNat 8 (v / 2 ^ 8), BitVec.ofNat 8 (v / 2 ^ 16)] with
  | .ok (i, _) => some i
  | .error _ => none

/-- The opcodes of ORA by mode (R130). -/
def opcodeOra : Src → Option Byte
  | .mem (.izx _) => some 0x01
  | .mem (.zp _) => some 0x05
  | .imm _ => some 0x09
  | .mem (.abs _) => some 0x0D
  | .mem (.izy _) => some 0x11
  | .mem (.zpx _) => some 0x15
  | .mem (.absy _) => some 0x19
  | .mem (.absx _) => some 0x1D
  | _ => none

/-- The opcodes of ASL by mode (R142). -/
def opcodeAsl : ShiftDst → Option Byte
  | .mem (.zp _) => some 0x06
  | .acc => some 0x0A
  | .mem (.abs _) => some 0x0E
  | .mem (.zpx _) => some 0x16
  | .mem (.absx _) => some 0x1E

/-- The opcodes of AND by mode (R129). -/
def opcodeAnd : Src → Option Byte
  | .mem (.izx _) => some 0x21
  | .mem (.zp _) => some 0x25
  | .imm _ => some 0x29
  | .mem (.abs _) => some 0x2D
  | .mem (.izy _) => some 0x31
  | .mem (.zpx _) => some 0x35
  | .mem (.absy _) => some 0x39
  | .mem (.absx _) => some 0x3D
  | _ => none

/-- The opcodes of BIT by mode (R135). -/
def opcodeBit : Loc → Option Byte
  | .zp _ => some 0x24
  | .abs _ => some 0x2C
  | _ => none

/-- The opcodes of ROL by mode (R144). -/
def opcodeRol : ShiftDst → Option Byte
  | .mem (.zp _) => some 0x26
  | .acc => some 0x2A
  | .mem (.abs _) => some 0x2E
  | .mem (.zpx _) => some 0x36
  | .mem (.absx _) => some 0x3E

/-- The opcodes of EOR by mode (R131). -/
def opcodeEor : Src → Option Byte
  | .mem (.izx _) => some 0x41
  | .mem (.zp _) => some 0x45
  | .imm _ => some 0x49
  | .mem (.abs _) => some 0x4D
  | .mem (.izy _) => some 0x51
  | .mem (.zpx _) => some 0x55
  | .mem (.absy _) => some 0x59
  | .mem (.absx _) => some 0x5D
  | _ => none

/-- The opcodes of LSR by mode (R143). -/
def opcodeLsr : ShiftDst → Option Byte
  | .mem (.zp _) => some 0x46
  | .acc => some 0x4A
  | .mem (.abs _) => some 0x4E
  | .mem (.zpx _) => some 0x56
  | .mem (.absx _) => some 0x5E

/-- The opcodes of JMP by mode (R146). -/
def opcodeJmp : JmpTarget → Option Byte
  | .abs _ => some 0x4C
  | .ind _ => some 0x6C

/-- The opcodes of ADC by mode (R127). -/
def opcodeAdc : Src → Option Byte
  | .mem (.izx _) => some 0x61
  | .mem (.zp _) => some 0x65
  | .imm _ => some 0x69
  | .mem (.abs _) => some 0x6D
  | .mem (.izy _) => some 0x71
  | .mem (.zpx _) => some 0x75
  | .mem (.absy _) => some 0x79
  | .mem (.absx _) => some 0x7D
  | _ => none

/-- The opcodes of ROR by mode (R145). -/
def opcodeRor : ShiftDst → Option Byte
  | .mem (.zp _) => some 0x66
  | .acc => some 0x6A
  | .mem (.abs _) => some 0x6E
  | .mem (.zpx _) => some 0x76
  | .mem (.absx _) => some 0x7E

/-- The opcodes of STA by mode (R114). -/
def opcodeSta : Loc → Option Byte
  | .izx _ => some 0x81
  | .zp _ => some 0x85
  | .abs _ => some 0x8D
  | .izy _ => some 0x91
  | .zpx _ => some 0x95
  | .absy _ => some 0x99
  | .absx _ => some 0x9D
  | _ => none

/-- The opcodes of STY by mode (R116). -/
def opcodeSty : Loc → Option Byte
  | .zp _ => some 0x84
  | .abs _ => some 0x8C
  | .zpx _ => some 0x94
  | _ => none

/-- The opcodes of STX by mode (R115). -/
def opcodeStx : Loc → Option Byte
  | .zp _ => some 0x86
  | .abs _ => some 0x8E
  | .zpy _ => some 0x96
  | _ => none

/-- The opcodes of LDY by mode (R113). -/
def opcodeLdy : Src → Option Byte
  | .imm _ => some 0xA0
  | .mem (.zp _) => some 0xA4
  | .mem (.abs _) => some 0xAC
  | .mem (.zpx _) => some 0xB4
  | .mem (.absx _) => some 0xBC
  | _ => none

/-- The opcodes of LDA by mode (R111). -/
def opcodeLda : Src → Option Byte
  | .mem (.izx _) => some 0xA1
  | .mem (.zp _) => some 0xA5
  | .imm _ => some 0xA9
  | .mem (.abs _) => some 0xAD
  | .mem (.izy _) => some 0xB1
  | .mem (.zpx _) => some 0xB5
  | .mem (.absy _) => some 0xB9
  | .mem (.absx _) => some 0xBD
  | _ => none

/-- The opcodes of LDX by mode (R112). -/
def opcodeLdx : Src → Option Byte
  | .imm _ => some 0xA2
  | .mem (.zp _) => some 0xA6
  | .mem (.abs _) => some 0xAE
  | .mem (.zpy _) => some 0xB6
  | .mem (.absy _) => some 0xBE
  | _ => none

/-- The opcodes of CPY by mode (R134). -/
def opcodeCpy : Src → Option Byte
  | .imm _ => some 0xC0
  | .mem (.zp _) => some 0xC4
  | .mem (.abs _) => some 0xCC
  | _ => none

/-- The opcodes of CMP by mode (R132). -/
def opcodeCmp : Src → Option Byte
  | .mem (.izx _) => some 0xC1
  | .mem (.zp _) => some 0xC5
  | .imm _ => some 0xC9
  | .mem (.abs _) => some 0xCD
  | .mem (.izy _) => some 0xD1
  | .mem (.zpx _) => some 0xD5
  | .mem (.absy _) => some 0xD9
  | .mem (.absx _) => some 0xDD
  | _ => none

/-- The opcodes of DEC by mode (R137). -/
def opcodeDec : RmwLoc → Option Byte
  | .zp _ => some 0xC6
  | .abs _ => some 0xCE
  | .zpx _ => some 0xD6
  | .absx _ => some 0xDE

/-- The opcodes of CPX by mode (R133). -/
def opcodeCpx : Src → Option Byte
  | .imm _ => some 0xE0
  | .mem (.zp _) => some 0xE4
  | .mem (.abs _) => some 0xEC
  | _ => none

/-- The opcodes of SBC by mode (R128). -/
def opcodeSbc : Src → Option Byte
  | .mem (.izx _) => some 0xE1
  | .mem (.zp _) => some 0xE5
  | .imm _ => some 0xE9
  | .mem (.abs _) => some 0xED
  | .mem (.izy _) => some 0xF1
  | .mem (.zpx _) => some 0xF5
  | .mem (.absy _) => some 0xF9
  | .mem (.absx _) => some 0xFD
  | _ => none

/-- The opcodes of INC by mode (R136). -/
def opcodeInc : RmwLoc → Option Byte
  | .zp _ => some 0xE6
  | .abs _ => some 0xEE
  | .zpx _ => some 0xF6
  | .absx _ => some 0xFE

/-- The opcode byte of an instruction, from the encoding tables of 41_load_store.md to 46_flags_misc.md; none for a pair of
mnemonic and mode that has no opcode. -/
def Instr.opcode : Instr → Option Byte
  | .lda o => opcodeLda o
  | .ldx o => opcodeLdx o
  | .ldy o => opcodeLdy o
  | .sta l => opcodeSta l
  | .stx l => opcodeStx l
  | .sty l => opcodeSty l
  | .tax => some 0xAA
  | .tay => some 0xA8
  | .txa => some 0x8A
  | .tya => some 0x98
  | .tsx => some 0xBA
  | .txs => some 0x9A
  | .pha => some 0x48
  | .php => some 0x08
  | .pla => some 0x68
  | .plp => some 0x28
  | .adc o => opcodeAdc o
  | .sbc o => opcodeSbc o
  | .and o => opcodeAnd o
  | .ora o => opcodeOra o
  | .eor o => opcodeEor o
  | .cmp o => opcodeCmp o
  | .cpx o => opcodeCpx o
  | .cpy o => opcodeCpy o
  | .bit l => opcodeBit l
  | .inc l => opcodeInc l
  | .dec l => opcodeDec l
  | .inx => some 0xE8
  | .iny => some 0xC8
  | .dex => some 0xCA
  | .dey => some 0x88
  | .asl o => opcodeAsl o
  | .lsr o => opcodeLsr o
  | .rol o => opcodeRol o
  | .ror o => opcodeRor o
  | .jmp t => opcodeJmp t
  | .jsr _ => some 0x20
  | .rts => some 0x60
  | .bpl _ => some 0x10
  | .bmi _ => some 0x30
  | .bvc _ => some 0x50
  | .bvs _ => some 0x70
  | .bcc _ => some 0x90
  | .bcs _ => some 0xB0
  | .bne _ => some 0xD0
  | .beq _ => some 0xF0
  | .brk => some 0x00
  | .rti => some 0x40
  | .clc => some 0x18
  | .sec => some 0x38
  | .cli => some 0x58
  | .sei => some 0x78
  | .clv => some 0xB8
  | .cld => some 0xD8
  | .sed => some 0xF8
  | .nop => some 0xEA
  | .unsupported op => if undocumentedOpcodes.contains op then some op else none

/-- The bytes of a 16-bit operand: the low byte at the lower address (R43, R88). -/
def wordBytes (a : Word) : List Byte := [loByte a, hiByte a]

/-- The operand bytes of a memory operand. -/
def Loc.bytes : Loc → List Byte
  | .zp n | .zpx n | .zpy n | .izx n | .izy n => [n]
  | .abs a | .absx a | .absy a => wordBytes a

/-- The operand bytes of a read operand. -/
def Src.bytes : Src → List Byte
  | .imm v => [v]
  | .mem l => l.bytes

/-- The operand bytes of a shift operand. -/
def ShiftDst.bytes : ShiftDst → List Byte
  | .acc => []
  | .mem l => l.loc.bytes

/-- The operand bytes of a JMP operand. -/
def JmpTarget.bytes : JmpTarget → List Byte
  | .abs a | .ind a => wordBytes a

/-- The operand bytes of an instruction (Table R88). -/
def Instr.operandBytes : Instr → List Byte
  | .lda o | .ldx o | .ldy o | .adc o | .sbc o | .and o | .ora o | .eor o | .cmp o | .cpx o | .cpy o => o.bytes
  | .sta l | .stx l | .sty l | .bit l => l.bytes
  | .inc l | .dec l => l.loc.bytes
  | .asl o | .lsr o | .rol o | .ror o => o.bytes
  | .jmp t => t.bytes
  | .jsr a => wordBytes a
  | .bpl off | .bmi off | .bvc off | .bvs off | .bcc off | .bcs off | .bne off | .beq off => [off]
  | .tax | .tay | .txa | .tya | .tsx | .txs | .pha | .php | .pla | .plp | .inx | .iny | .dex | .dey
  | .rts | .brk | .rti | .clc | .sec | .cli | .sei | .clv | .cld | .sed | .nop | .unsupported _ => []

/-- The bytes of an instruction: its opcode byte, then its operand bytes; no bytes if it has no opcode. -/
def encode (i : Instr) : List Byte :=
  match i.opcode with
  | some op => op :: i.operandBytes
  | none => []

end Sys2Proof
end

