-- ==== Sys2Proof/Machine/Memory.lean ====
section
/-! DEFINITION. Reading and writing a memory in its one canonical form: indices strictly rising, no value 0 (log 5). -/
namespace Sys2Proof

/-- The cell at index `i`; an index that is not listed reads 0. -/
def Memory.read {w : Nat} (m : Memory w) (i : Nat) : BitVec w :=
  match m with
  | [] => 0#w
  | (k, v) :: rest => if k = i then v else Memory.read rest i

/-- Set the cell at index `i` to `v`, keeping the canonical form. -/
def Memory.write {w : Nat} (m : Memory w) (i : Nat) (v : BitVec w) : Memory w :=
  match m with
  | [] => if v = 0#w then [] else [(i, v)]
  | (k, u) :: rest =>
    if i < k then (if v = 0#w then (k, u) :: rest else (i, v) :: (k, u) :: rest)
    else if i = k then (if v = 0#w then rest else (i, v) :: rest)
    else (k, u) :: Memory.write rest i v

/-- The canonical form with every index at least `lo`. -/
def Memory.wfFrom {w : Nat} (lo : Nat) (m : Memory w) : Bool :=
  match m with
  | [] => true
  | (k, v) :: rest => decide (lo ≤ k) && v != 0#w && Memory.wfFrom (k + 1) rest

/-- The canonical form: indices strictly rising, no value 0. -/
def Memory.wf {w : Nat} (m : Memory w) : Bool := Memory.wfFrom 0 m

/-- Every listed index is below `size`. -/
def Memory.within {w : Nat} (size : Nat) (m : Memory w) : Bool := m.all fun c => decide (c.1 < size)

/-- The memory whose cell `base + k` is the k-th value of a list. -/
def Memory.ofListFrom {w : Nat} (base : Nat) (vs : List (BitVec w)) : Memory w :=
  match vs with
  | [] => []
  | v :: rest => if v = 0#w then Memory.ofListFrom (base + 1) rest else (base, v) :: Memory.ofListFrom (base + 1) rest

/-- A memory of `size` cells holding a string of values from index 0; cells past the end of the string hold 0. -/
def Memory.ofList {w : Nat} (size : Nat) (vs : List (BitVec w)) : Memory w := Memory.ofListFrom 0 (vs.take size)

end Sys2Proof
end

