-- ==== Sys2Proof/Config.lean ====
section
/-! DEFINITION. The configuration parameters of 00_scope.md Table R7 and the free value of the model.
A configuration is fixed for a run; State holds it so that one step function serves every configuration (log 2). -/
namespace Sys2Proof

/-- The four nametable mirroring variants (10_state.md R32). -/
inductive Mirroring where
  | oneScreenLower | oneScreenUpper | vertical | horizontal
  deriving DecidableEq, Repr

/-- `DECIMAL_POLICY` (R7): whether ADC and SBC fault when D is set. -/
inductive DecimalPolicy where
  | ignore | refuse
  deriving DecidableEq, Repr

/-- `BRANCH_PAGE_RULE` (R7, 40_dispatch.md R107). -/
inductive BranchPageRule where
  | highByte | sourceMaskF0
  deriving DecidableEq, Repr

/-- `NMI_MODEL` (R7, 60_exceptions.md R172, R173). -/
inductive NmiModel where
  | none | vblankEdge
  deriving DecidableEq, Repr

/-- `PPU_TICKS_PER_CPU_CYCLE` (R7): 1 or 3. -/
inductive TickRatio where
  | one | three
  deriving DecidableEq, Repr

/-- The parameters of Table R7 that do not come from the cartridge. -/
structure Params where
  /-- The documented opcodes that are NOT in `HANDLED`; the default `HANDLED` is all 151 (R7), so nothing is omitted (DESIGN
  CHOICE, log 10). -/
  omitted        : List Byte
  decimalPolicy  : DecimalPolicy
  branchPageRule : BranchPageRule
  tickRatio      : TickRatio
  nmiModel       : NmiModel
  deriving DecidableEq, Repr

/-- The default column of Table R7 (log 13). -/
def Params.default : Params :=
  { omitted := [], decimalPolicy := .ignore, branchPageRule := .highByte, tickRatio := .one, nmiModel := .none }

/-- A count of PRG banks: 256 at most, the bound of the parameter's domain (Table R7, 92_eei_decisions.md D26). No configuration
has 0 banks: the type holds 0 for the construction check that refuses it (70_reset_and_hazards.md R189; log 14). -/
abbrev BankCount := Fin 257

/-- One configuration: what the cartridge fixes, and the parameters. -/
structure Config where
  /-- `PRG_BANKS`, 1 to 256. -/
  prgBanks   : BankCount
  /-- `PRG_ROM`: `prgBanks * 16384` bytes (10_state.md R26). -/
  prgRom     : Memory 8
  /-- The length of `CHR_ROM` in bytes; 0 means CHR-RAM (10_state.md R28). -/
  chrRomLen  : Nat
  /-- `CHR_ROM`. -/
  chrRom     : Memory 8
  /-- `PRG_RAM_UNITS = 1`: the cartridge has 8192 bytes of PRG-RAM (10_state.md R27). -/
  hasPrgRam  : Bool
  /-- `MIRROR_INIT`. -/
  mirrorInit : Mirroring
  params     : Params
  deriving DecidableEq, Repr

/-- The oracle `STATUS_SPRITE_BITS` (00_scope.md R7, R8; 20_memory.md R66): the two bits that draw number `k` gives to
status bits 6 and 5. A FREE VALUE: it has no body, so nothing can be proved of any draw (log 6). -/
opaque Config.statusSpriteBits : Nat → BitVec 2

end Sys2Proof
end

