-- ==== Sys2Proof/Machine/State.lean ====
section
/-! DEFINITION. The state of the core as plain data (10_state.md), the error kinds and fault records of 60_exceptions.md
Table R168, the two ways the model's step can stop, and the state after reset. -/
namespace Sys2Proof.Machine

/-- The kinds of Table R168 with their contextual values (DESIGN CHOICE, log 18). -/
inductive ErrorKind where
  /-- Code 1: the 16-bit address accessed has no backing byte. -/
  | addressOutOfBounds (a : Word)
  /-- Code 2: the opcode byte has no registered handler; the address it was fetched from. -/
  | unsupportedOpcode (op : Byte) (addr : Word)
  /-- Code 3: unreachable, the 2-bit selector has no invalid value (20_memory.md R60). -/
  | invalidBankMode (selector : Nat)
  /-- Code 4: PRG-RAM is present and disabled; the 16-bit address accessed. -/
  | ramDisabled (a : Word)
  /-- Code 5: the declared bank count and the PRG image's length. -/
  | inconsistentPrgSize (banks length : Nat)
  /-- Code 5: the CHR image's length. -/
  | inconsistentChrSize (length : Nat)
  /-- Code 6: the PRG-RAM selector. -/
  | inconsistentRamSize (selector : Nat)
  /-- Code 7: the mapper identifier. -/
  | unknownMapper (id : Nat)
  /-- Code 8: the opcode byte. -/
  | invalidAddressingMode (op : Byte)
  /-- Code 9: the opcode byte. -/
  | unknownMnemonic (op : Byte)
  /-- Code 9: the opcode byte. Nothing raises it: an opcode that has a mnemonic has a mode (30_encoding.md Table R92; log 17). -/
  | unknownMode (op : Byte)
  /-- Code 10: unreachable through the bus (20_memory.md R78); the register index. -/
  | unreadablePpuReg (index : Nat)
  /-- Code 10: unreachable through the bus (20_memory.md R78); the register index. -/
  | unwriteablePpuReg (index : Nat)
  /-- Code 11: the address of the ADC or SBC opcode. -/
  | decimalUnsupported (addr : Word)
  deriving DecidableEq, Repr

/-- A fault record (10_state.md R24, R168): the kind with its info, and the address of the opcode of the instruction whose
step raised it. The record's code is `ErrorKind.code` of its kind. -/
structure FaultRecord where
  kind : ErrorKind
  pc   : Word
  deriving DecidableEq, Repr

/-- The seven flags (10_state.md R19): separate booleans, no stored status byte. -/
structure Flags where
  n : Bool
  v : Bool
  b : Bool
  d : Bool
  i : Bool
  z : Bool
  c : Bool
  deriving DecidableEq, Repr

/-- The bank-switching controller `MAP` (10_state.md R29, R30). -/
structure MapState where
  shift   : Byte
  control : BitVec 5
  chr0    : BitVec 5
  chr1    : BitVec 5
  prg     : BitVec 5
  deriving DecidableEq, Repr

/-- The picture unit `PPU` (10_state.md R31 to R40). -/
structure Ppu where
  scanline  : Nat
  cycle     : Nat
  frame     : Nat
  pending   : Nat
  mirroring : Mirroring
  latch     : Byte
  vblank    : Bool
  ctrl      : Byte
  mask      : Byte
  v         : BitVec 15
  t         : BitVec 15
  x         : BitVec 3
  w         : Bool
  readbuf   : Byte
  oamaddr   : Byte
  oam       : Memory 8
  ciram     : Memory 8
  pal       : Memory 6
  deriving DecidableEq, Repr

/-- The whole state. `cfg` is the configuration of 00_scope.md R7, which no step changes (log 2); `spriteDraws` is the model's
own counter of draws of the `STATUS_SPRITE_BITS` oracle (log 6); everything else is named by 10_state.md. -/
structure State where
  cfg         : Config
  a           : Byte
  x           : Byte
  y           : Byte
  sp          : Byte
  pc          : Word
  flags       : Flags
  cyc         : Nat
  nmiPending  : Bool
  fault       : Option FaultRecord
  ram         : Memory 8
  prgRam      : Memory 8
  chrRam      : Memory 8
  map         : MapState
  ppu         : Ppu
  spriteDraws : Nat
  deriving DecidableEq, Repr

/-- The result of an operation that makes bus accesses: its value and the state after them, or the error of the first access
that fails and the state the completed accesses left (40_dispatch.md R102). -/
inductive Access (α : Type) where
  | ok (v : α) (s : State)
  | raise (k : ErrorKind) (s : State)
  deriving DecidableEq, Repr

/-- Why the machine takes no step. -/
inductive Fault where
  /-- Raised by `step` alone, when `FAULT` is not none: the core is quiescent and no step runs (40_dispatch.md R97,
  60_exceptions.md R170). Safe: the core has no further step either. -/
  | quiescent (r : FaultRecord)
  deriving DecidableEq, Repr

/-- Why an instruction has no meaning in the model. -/
inductive Refusal where
  /-- Raised by `exec` for an instruction not modelled yet; no instruction of this model is. Safe: no next state is claimed. -/
  | notModelled (mnemonic : String)
  deriving DecidableEq, Repr

/-- The cartridge and parameters of `State.reset`: the baseline of 95_test_vectors.md (one PRG bank, PRG-RAM present, no
CHR-ROM, Horizontal mirroring, the defaults of Table R7), with a PRG-ROM of zero bytes. DESIGN CHOICE, log 3. -/
def resetConfig : Config :=
  { prgBanks := 1, prgRom := [], chrRomLen := 0, chrRom := [], hasPrgRam := true, mirrorInit := .horizontal,
    params := Params.default }

/-- The state after construction and boot (10_state.md Table R42, 70_reset_and_hazards.md R192) of the cartridge of
`resetConfig` with every draw of `POWER_ON` 0 (DESIGN CHOICE, log 3 and 4). The reset vector of that cartridge is 0x0000.
`reset_is_constructed` proves that `construct` gives this state. -/
def State.reset : State :=
  { cfg := resetConfig
    a := 0, x := 0, y := 0, sp := 0, pc := 0
    flags := { n := false, v := false, b := false, d := false, i := false, z := false, c := false }
    cyc := 0, nmiPending := false, fault := none
    ram := [], prgRam := [], chrRam := []
    map := { shift := 0x10, control := 0x0F, chr0 := 0, chr1 := 0, prg := 0 }
    ppu :=
      { scanline := 261, cycle := 0, frame := 0, pending := 0, mirroring := .horizontal, latch := 0, vblank := false
        ctrl := 0, mask := 0, v := 0, t := 0, x := 0, w := false, readbuf := 0, oamaddr := 0
        oam := [], ciram := [], pal := [] }
    spriteDraws := 0 }

end Sys2Proof.Machine
end

