-- ==== Sys2Proof/Machine/Registers.lean ====
section
/-! DEFINITION. The one writer of each piece of state. -/
namespace Sys2Proof.Machine

def State.setA (s : State) (v : Byte) : State := { s with a := v }
def State.setX (s : State) (v : Byte) : State := { s with x := v }
def State.setY (s : State) (v : Byte) : State := { s with y := v }
def State.setSp (s : State) (v : Byte) : State := { s with sp := v }
def State.setPc (s : State) (v : Word) : State := { s with pc := v }
def State.setFlags (s : State) (v : Flags) : State := { s with flags := v }
def State.setCyc (s : State) (v : Nat) : State := { s with cyc := v }
def State.setNmiPending (s : State) (v : Bool) : State := { s with nmiPending := v }
def State.setFault (s : State) (v : Option FaultRecord) : State := { s with fault := v }
def State.setRam (s : State) (v : Memory 8) : State := { s with ram := v }
def State.setPrgRam (s : State) (v : Memory 8) : State := { s with prgRam := v }
def State.setChrRam (s : State) (v : Memory 8) : State := { s with chrRam := v }
def State.setMap (s : State) (v : MapState) : State := { s with map := v }
def State.setPpu (s : State) (v : Ppu) : State := { s with ppu := v }
def State.setSpriteDraws (s : State) (v : Nat) : State := { s with spriteDraws := v }

end Sys2Proof.Machine
end

