-- ==== Sys2Proof/Machine/Mapper.lean ====
section
/-! DEFINITION. The bank-switching controller: its serial protocol and its PRG and CHR bank resolution
(20_memory.md R55 to R61). -/
namespace Sys2Proof.Machine

/-- `code(m)`: the control-register encoding of a mirroring mode (10_state.md R42). -/
def mirroringCode : Mirroring → BitVec 5
  | .oneScreenLower => 0
  | .oneScreenUpper => 1
  | .vertical => 2
  | .horizontal => 3

/-- `mode(val[1:0])`: the mirroring mode of a control-register value (10_state.md Table R30). -/
def mirroringOf (control : BitVec 5) : Mirroring :=
  match control.getLsbD 1, control.getLsbD 0 with
  | false, false => .oneScreenLower
  | false, true => .oneScreenUpper
  | true, false => .vertical
  | true, true => .horizontal

/-- The four target registers of the controller (R56). -/
inductive MapReg where
  | control | chr0 | chr1 | prg
  deriving DecidableEq, Repr

/-- `target(a)`: the register that address bits 14:13 of the fifth write select (R56). -/
def mapTarget (a : Word) : MapReg :=
  match a.getLsbD 14, a.getLsbD 13 with
  | false, false => .control
  | false, true => .chr0
  | true, false => .chr1
  | true, true => .prg

/-- `commit(r, val)`; a commit to control also sets the picture unit's mirroring (R57). -/
def mapCommit (r : MapReg) (val : BitVec 5) (s : State) : State :=
  match r with
  | .control =>
    (s.setMap { s.map with control := val }).setPpu { s.ppu with mirroring := mirroringOf val }
  | .chr0 => s.setMap { s.map with chr0 := val }
  | .chr1 => s.setMap { s.map with chr1 := val }
  | .prg => s.setMap { s.map with prg := val }

/-- The marker value of the shift register (10_state.md R29). -/
def shiftMarker : Byte := 0x10

/-- `(MAP.shift >> 1) | (v[0] << 4)` (R55). -/
def shiftIn (shift v : Byte) : Byte := (shift >>> 1) ||| ((BitVec.ofBool (v.getLsbD 0)).setWidth 8 <<< 4)

/-- A write of `v` to the load-register address `a` in 0x8000-0xFFFF (R55). -/
def mapWrite (a : Word) (v : Byte) (s : State) : State :=
  if v.getLsbD 7 then
    s.setMap { s.map with shift := shiftMarker, control := s.map.control ||| 0x0C }
  else
    let shift' := shiftIn s.map.shift v
    if s.map.shift.getLsbD 0 then
      let t := mapCommit (mapTarget a) (shift'.extractLsb' 0 5) s
      t.setMap { t.map with shift := shiftMarker }
    else
      s.setMap { s.map with shift := shift' }

/-- `MAP.control[3:2]`, the PRG mode (10_state.md Table R30). -/
def prgMode (m : MapState) : BitVec 2 := m.control.extractLsb' 2 2

/-- `MAP.prg[3:0]`, the PRG bank field (10_state.md Table R30). -/
def prgBankField (m : MapState) : Nat := (m.prg.extractLsb' 0 4).toNat

/-- The 16 KB bank shown at 0x8000-0xBFFF, `lo` of R59, with `nb` banks in the image. -/
def prgLowBank (nb : Nat) (m : MapState) : Nat :=
  if prgMode m = 2 then 0
  else if prgMode m = 3 then prgBankField m % nb
  else (prgBankField m / 2 * 2) % nb

/-- The 16 KB bank shown at 0xC000-0xFFFF, `hi` of R59. -/
def prgHighBank (nb : Nat) (m : MapState) : Nat :=
  if prgMode m = 2 then prgBankField m % nb
  else if prgMode m = 3 then nb - 1
  else (prgBankField m / 2 * 2 + 1) % nb

/-- The bank that the CPU address `a` in 0x8000-0xFFFF falls in (R59). -/
def prgBank (a : Word) (s : State) : Nat :=
  if a.toNat < 0xC000 then prgLowBank s.cfg.prgBanks.val s.map else prgHighBank s.cfg.prgBanks.val s.map

/-- The offset into PRG_ROM of the CPU address `a` in 0x8000-0xFFFF: `bank * 16384 + (a & 0x3FFF)` (R59). -/
def prgOffset (a : Word) (s : State) : Nat := prgBank a s * 16384 + a.toNat % 16384

/-- The byte that a read of `a` in 0x8000-0xFFFF returns; no side effect, no fault (R59). -/
def prgRead (a : Word) (s : State) : Byte := s.cfg.prgRom.read (prgOffset a s)

/-- CHR is a RAM: the image has no CHR-ROM (10_state.md R28). -/
def chrIsRam (c : Config) : Bool := c.chrRomLen == 0

/-- `M4`, the number of 4 KB CHR banks (R61). -/
def chrBanks (c : Config) : Nat := if chrIsRam c then 2 else c.chrRomLen / 4096

/-- The 4 KB CHR bank of a PPU address below 0x2000 (R61). -/
def chrBank (a : Nat) (s : State) : Nat :=
  if s.map.control.getLsbD 4 then
    (if a < 0x1000 then s.map.chr0.toNat else s.map.chr1.toNat) % chrBanks s.cfg
  else
    (s.map.chr0.toNat / 2 * 2 + a / 4096) % chrBanks s.cfg

/-- The index into CHR of a PPU address below 0x2000 (R61). -/
def chrIndex (a : Nat) (s : State) : Nat := chrBank a s * 4096 + a % 4096

/-- A read of CHR (R61). -/
def chrRead (a : Nat) (s : State) : Byte :=
  if chrIsRam s.cfg then s.chrRam.read (chrIndex a s) else s.cfg.chrRom.read (chrIndex a s)

/-- A write of CHR: it sets the byte of a CHR-RAM and does nothing to a CHR-ROM (R61). -/
def chrWrite (a : Nat) (v : Byte) (s : State) : State :=
  if chrIsRam s.cfg then s.setChrRam (s.chrRam.write (chrIndex a s) v) else s

end Sys2Proof.Machine
end

