-- ==== Sys2Proof/Machine/PictureUnit.lean ====
section
/-! DEFINITION. The picture unit's address space (20_memory.md R79 to R81) and its eight CPU-visible registers
(R62 to R77). No register access advances picture-unit time (R64). -/
namespace Sys2Proof.Machine

/-- The eight registers of Table R62. -/
inductive PpuReg where
  | ctrl | mask | status | oamAddr | oamData | scroll | addr | data
  deriving DecidableEq, Repr

/-- The register of index `a % 8` (R49, Table R62). -/
def ppuRegOf (a : Word) : PpuReg :=
  match a.getLsbD 2, a.getLsbD 1, a.getLsbD 0 with
  | false, false, false => .ctrl
  | false, false, true => .mask
  | false, true, false => .status
  | false, true, true => .oamAddr
  | true, false, false => .oamData
  | true, false, true => .scroll
  | true, true, false => .addr
  | true, true, true => .data

/-- What a 14-bit PPU address resolves to (Table R79). -/
inductive PpuTarget where
  | chr (a : Nat)
  | ciram (i : Nat)
  | palette (i : Nat)
  deriving DecidableEq, Repr

/-- `page(n)`: the CIRAM page of nametable `n` (R80). -/
def ciramPage (m : Mirroring) (n : Nat) : Nat :=
  match m with
  | .horizontal => n / 2
  | .vertical => n % 2
  | .oneScreenLower => 0
  | .oneScreenUpper => 1

/-- The CIRAM index of a PPU address in 0x2000-0x2FFF (R80). -/
def ciramIndex (m : Mirroring) (a : Nat) : Nat := ciramPage m (a / 0x400 % 4) * 0x400 + a % 0x400

/-- The palette index of a PPU address in 0x3F00-0x3FFF: 0x10, 0x14, 0x18 and 0x1C mirror 0x00, 0x04, 0x08 and 0x0C (R81). -/
def paletteIndex (a : Nat) : Nat :=
  let i := a % 0x20
  if i = 0x10 ∨ i = 0x14 ∨ i = 0x18 ∨ i = 0x1C then i - 0x10 else i

/-- Table R79. -/
def ppuResolve (m : Mirroring) (a : BitVec 14) : PpuTarget :=
  let n := a.toNat
  if n < 0x2000 then .chr n
  else if n < 0x3000 then .ciram (ciramIndex m n)
  else if n < 0x3F00 then .ciram (ciramIndex m (n - 0x1000))
  else .palette (paletteIndex n)

/-- `PpuMemRead(a)` (R79); a palette entry has bits 7:6 zero (R81). -/
def ppuMemRead (a : BitVec 14) (s : State) : Byte :=
  match ppuResolve s.ppu.mirroring a with
  | .chr n => chrRead n s
  | .ciram i => s.ppu.ciram.read i
  | .palette i => (s.ppu.pal.read i).setWidth 8

/-- `PpuMemWrite(a, v)` (R79); a palette write keeps bits 5:0 (R81). -/
def ppuMemWrite (a : BitVec 14) (v : Byte) (s : State) : State :=
  match ppuResolve s.ppu.mirroring a with
  | .chr n => chrWrite n v s
  | .ciram i => s.setPpu { s.ppu with ciram := s.ppu.ciram.write i v }
  | .palette i => s.setPpu { s.ppu with pal := s.ppu.pal.write i (v.setWidth 6) }

/-- `PPU.v & 0x3FFF`, the PPU address of a data access (R76, R77). -/
def vramAddr (p : Ppu) : BitVec 14 := p.v.setWidth 14

/-- The increment after an access of index 7: 32 if `PPU.ctrl[2]` is 1, else 1, mod 0x8000 (R75). -/
def incV (p : Ppu) : BitVec 15 := p.v + (if p.ctrl.getLsbD 2 then 32 else 1)

/-- A read of index 2 (R66): the value is vblank, two drawn bits and the latch's low five bits. -/
def statusRead (s : State) : Byte × State :=
  let r : Byte := BitVec.ofBool s.ppu.vblank ++ Config.statusSpriteBits s.spriteDraws ++ s.ppu.latch.extractLsb' 0 5
  (r, (s.setSpriteDraws (s.spriteDraws + 1)).setPpu { s.ppu with vblank := false, w := false, latch := r })

/-- A read of index 4 (R72). -/
def oamDataRead (s : State) : Byte × State :=
  let r := s.ppu.oam.read s.ppu.oamaddr.toNat
  (r, s.setPpu { s.ppu with latch := r })

/-- A read of index 7 (R77): buffered below 0x3F00, a palette entry with the latch's bits 7:6 from there on. -/
def dataRead (s : State) : Byte × State :=
  let a := vramAddr s.ppu
  if a.toNat < 0x3F00 then
    let r := s.ppu.readbuf
    (r, s.setPpu { s.ppu with readbuf := ppuMemRead a s, v := incV s.ppu, latch := r })
  else
    let r := (s.ppu.latch &&& 0xC0) ||| ppuMemRead a s
    (r, s.setPpu { s.ppu with readbuf := ppuMemRead (a - 0x1000) s, v := incV s.ppu, latch := r })

/-- A CPU read of a picture-unit register: its value and the state after it. A write-only register returns the latch and
changes nothing (R65). -/
def ppuRead (r : PpuReg) (s : State) : Byte × State :=
  match r with
  | .status => statusRead s
  | .oamData => oamDataRead s
  | .data => dataRead s
  | .ctrl | .mask | .oamAddr | .scroll | .addr => (s.ppu.latch, s)

/-- A write of index 0 (R68): bits 1:0 go to `t[11:10]`; with `VblankEdge`, bit 7 rising while vblank is 1 makes an NMI
pending (60_exceptions.md R173). -/
def ctrlWrite (v : Byte) (s : State) : State :=
  let t : BitVec 15 := s.ppu.t.extractLsb' 12 3 ++ v.extractLsb' 0 2 ++ s.ppu.t.extractLsb' 0 10
  let edge := decide (s.cfg.params.nmiModel = .vblankEdge) && !s.ppu.ctrl.getLsbD 7 && v.getLsbD 7 && s.ppu.vblank
  (s.setNmiPending (s.nmiPending || edge)).setPpu { s.ppu with latch := v, ctrl := v, t := t }

/-- A write of index 5 (R73). -/
def scrollWrite (v : Byte) (s : State) : State :=
  let p := s.ppu
  if p.w then
    let t : BitVec 15 := v.extractLsb' 0 3 ++ p.t.extractLsb' 10 2 ++ v.extractLsb' 3 5 ++ p.t.extractLsb' 0 5
    s.setPpu { p with latch := v, t := t, w := false }
  else
    let t : BitVec 15 := p.t.extractLsb' 5 10 ++ v.extractLsb' 3 5
    s.setPpu { p with latch := v, t := t, x := v.extractLsb' 0 3, w := true }

/-- A write of index 6 (R74). -/
def addrWrite (v : Byte) (s : State) : State :=
  let p := s.ppu
  if p.w then
    let t : BitVec 15 := p.t.extractLsb' 8 7 ++ v
    s.setPpu { p with latch := v, t := t, v := t, w := false }
  else
    let t : BitVec 15 := 0#1 ++ v.extractLsb' 0 6 ++ p.t.extractLsb' 0 8
    s.setPpu { p with latch := v, t := t, w := true }

/-- A write of index 4 (R71). -/
def oamDataWrite (v : Byte) (s : State) : State :=
  s.setPpu { s.ppu with latch := v, oam := s.ppu.oam.write s.ppu.oamaddr.toNat v, oamaddr := s.ppu.oamaddr + 1 }

/-- A write of index 7 (R76). -/
def dataWrite (v : Byte) (s : State) : State :=
  let t := ppuMemWrite (vramAddr s.ppu) v (s.setPpu { s.ppu with latch := v })
  t.setPpu { t.ppu with v := incV t.ppu }

/-- A CPU write of a picture-unit register: the latch takes the written byte (R63), then the register's effect. -/
def ppuWrite (r : PpuReg) (v : Byte) (s : State) : State :=
  match r with
  | .ctrl => ctrlWrite v s
  | .mask => s.setPpu { s.ppu with latch := v, mask := v }
  | .status => s.setPpu { s.ppu with latch := v }
  | .oamAddr => s.setPpu { s.ppu with latch := v, oamaddr := v }
  | .oamData => oamDataWrite v s
  | .scroll => scrollWrite v s
  | .addr => addrWrite v s
  | .data => dataWrite v s

end Sys2Proof.Machine
end

