-- ==== Sys2Proof/Machine/Bus.lean ====
section
/-! DEFINITION. The CPU bus: the resolution of a 16-bit address (20_memory.md Table R47) and the one access it makes. -/
namespace Sys2Proof.Machine

/-- The regions of Table R47. -/
inductive Region where
  /-- Internal RAM and its mirrors: the index into RAM. -/
  | ram (i : Nat)
  /-- A picture-unit register or a mirror of it. -/
  | ppu (r : PpuReg)
  /-- 0x4000-0x4017. -/
  | apuIo
  /-- 0x4018-0x401F. -/
  | testRegion
  /-- 0x4020-0x5FFF. -/
  | cartUnused
  /-- 0x6000-0x7FFF: the index into PRG-RAM. -/
  | prgRam (i : Nat)
  /-- 0x8000-0xFFFF: PRG-ROM for reads, the controller's load register for writes. -/
  | prgRom
  deriving DecidableEq, Repr

/-- "A pure function of the address value against the fixed boundary table" (R45, R47). -/
def resolve (a : Word) : Region :=
  let n := a.toNat
  if n < 0x2000 then .ram (n % 0x800)
  else if n < 0x4000 then .ppu (ppuRegOf a)
  else if n < 0x4018 then .apuIo
  else if n < 0x4020 then .testRegion
  else if n < 0x6000 then .cartUnused
  else if n < 0x8000 then .prgRam (n - 0x6000)
  else .prgRom

/-- The error of any access to `a`, read or write, if there is one (R50 to R53). -/
def accessFault (a : Word) (s : State) : Option ErrorKind :=
  match resolve a with
  | .ram _ | .ppu _ | .prgRom => none
  | .apuIo | .testRegion | .cartUnused => some (.addressOutOfBounds a)
  | .prgRam _ =>
    if !s.cfg.hasPrgRam then some (.addressOutOfBounds a)
    else if s.map.prg.getLsbD 4 then some (.ramDisabled a)
    else none

/-- `MemRead(a, 1)` (R45). A faulting access changes no state (R50 to R53). -/
def busRead (a : Word) (s : State) : Access Byte :=
  match accessFault a s with
  | some k => .raise k s
  | none =>
    match resolve a with
    | .ram i => .ok (s.ram.read i) s
    | .ppu r => .ok (ppuRead r s).1 (ppuRead r s).2
    | .prgRam i => .ok (s.prgRam.read i) s
    | .prgRom => .ok (prgRead a s) s
    | .apuIo | .testRegion | .cartUnused => .raise (.addressOutOfBounds a) s

/-- `MemWrite(a, 1, v)` (R45). -/
def busWrite (a : Word) (v : Byte) (s : State) : Access Unit :=
  match accessFault a s with
  | some k => .raise k s
  | none =>
    match resolve a with
    | .ram i => .ok () (s.setRam (s.ram.write i v))
    | .ppu r => .ok () (ppuWrite r v s)
    | .prgRam i => .ok () (s.setPrgRam (s.prgRam.write i v))
    | .prgRom => .ok () (mapWrite a v s)
    | .apuIo | .testRegion | .cartUnused => .raise (.addressOutOfBounds a) s

/-- Continue after an access; after the first error nothing more is done (R102). -/
def Access.andThen {α β : Type} (r : Access α) (f : α → State → Access β) : Access β :=
  match r with
  | .ok v s => f v s
  | .raise k s => .raise k s

/-- `MemRead(a, 2)`: the low byte, then the high byte at `wrap16(a + 1)` (R46). -/
def busRead16 (a : Word) (s : State) : Access Word :=
  (busRead a s).andThen fun lo t => (busRead (a + 1) t).andThen fun hi u => .ok (mkWord hi lo) u

end Sys2Proof.Machine
end

