-- ==== Sys2Proof/Machine/Flags.lean ====
section
/-! DEFINITION. Every flag computation and 8-bit result of the instruction rules, and the status byte of 10_state.md R20, R21. -/
namespace Sys2Proof.Machine

/-- `setZN(v)`: `Z <- (v == 0); N <- v[7]` (00_scope.md R10). -/
def Flags.setZN (f : Flags) (v : Byte) : Flags := { f with z := v == 0, n := v.getLsbD 7 }

/-- `pack(b)`: N V 1 b D I Z C from bit 7 down; the stored B is not read (R20). -/
def Flags.pack (f : Flags) (b : Bool) : Byte :=
  BitVec.ofBool f.n ++ BitVec.ofBool f.v ++ 1#1 ++ BitVec.ofBool b ++
    BitVec.ofBool f.d ++ BitVec.ofBool f.i ++ BitVec.ofBool f.z ++ BitVec.ofBool f.c

/-- `unpack(p)`: the seven flags of a pulled byte; bit 5 is discarded (R21). -/
def Flags.unpack (p : Byte) : Flags :=
  { n := p.getLsbD 7, v := p.getLsbD 6, b := p.getLsbD 4, d := p.getLsbD 3, i := p.getLsbD 2, z := p.getLsbD 1
    c := p.getLsbD 0 }

/-- The unbounded sum of the ADC rule, 0 to 511 (R127). -/
def adcSum (a m : Byte) (c : Bool) : Nat := a.toNat + m.toNat + c.toNat

/-- The result byte of ADC: `s & 0xFF` (R127). -/
def adcResult (a m : Byte) (c : Bool) : Byte := BitVec.ofNat 8 (adcSum a m c)

/-- C, V, Z and N of ADC (R127). -/
def Flags.adc (f : Flags) (a m : Byte) : Flags :=
  let r := adcResult a m f.c
  let g : Flags := { f with c := decide (adcSum a m f.c > 0xFF), v := ((a ^^^ r) &&& (m ^^^ r) &&& 0x80) != 0 }
  g.setZN r

/-- The unbounded sum of the SBC rule: `A + (m ^ 0xFF) + C` (R128). -/
def sbcSum (a m : Byte) (c : Bool) : Nat := a.toNat + (m ^^^ 0xFF).toNat + c.toNat

/-- The result byte of SBC (R128). -/
def sbcResult (a m : Byte) (c : Bool) : Byte := BitVec.ofNat 8 (sbcSum a m c)

/-- C, V, Z and N of SBC (R128). -/
def Flags.sbc (f : Flags) (a m : Byte) : Flags :=
  let r := sbcResult a m f.c
  let g : Flags := { f with c := decide (sbcSum a m f.c > 0xFF), v := ((a ^^^ m) &&& (a ^^^ r) &&& 0x80) != 0 }
  g.setZN r

/-- Z, C and N of comparing the register `r` with `m` (R132 to R134). -/
def Flags.compare (f : Flags) (r m : Byte) : Flags :=
  { f with z := r == m, c := decide (r.toNat ≥ m.toNat), n := (r - m).getLsbD 7 }

/-- Z, N and V of BIT (R135). -/
def Flags.bitTest (f : Flags) (a m : Byte) : Flags :=
  { f with z := (a &&& m) == 0, n := m.getLsbD 7, v := m.getLsbD 6 }

/-- `(v << 1) & 0xFF` (R142). -/
def aslResult (v : Byte) : Byte := v <<< 1

/-- `v >> 1` (R143). -/
def lsrResult (v : Byte) : Byte := v >>> 1

/-- `((v << 1) | C) & 0xFF`: the old C enters bit 0 (R144). -/
def rolResult (c : Bool) (v : Byte) : Byte := (v <<< 1) ||| (BitVec.ofBool c).setWidth 8

/-- `(v >> 1) | (C << 7)`: the old C enters bit 7 (R145). -/
def rorResult (c : Bool) (v : Byte) : Byte := (v >>> 1) ||| ((BitVec.ofBool c).setWidth 8 <<< 7)

/-- C from the old bit 7; Z, N from the result (R142). -/
def Flags.asl (f : Flags) (v : Byte) : Flags := { f with c := v.getLsbD 7 }.setZN (aslResult v)

/-- C from the old bit 0; Z from the result; N cleared (R143). -/
def Flags.lsr (f : Flags) (v : Byte) : Flags := { f with c := v.getLsbD 0, z := lsrResult v == 0, n := false }

/-- C from the old bit 7; Z, N from the result (R144). -/
def Flags.rol (f : Flags) (v : Byte) : Flags := { f with c := v.getLsbD 7 }.setZN (rolResult f.c v)

/-- C from the old bit 0; Z, N from the result (R145). -/
def Flags.ror (f : Flags) (v : Byte) : Flags := { f with c := v.getLsbD 0 }.setZN (rorResult f.c v)

end Sys2Proof.Machine
end

