-- ==== Sys2Proof/Machine/Timing.lean ====
section
/-! DEFINITION. The picture unit's timing state machine and the end of a successful step (40_dispatch.md R97,
60_exceptions.md R179, R180). -/
namespace Sys2Proof.Machine

/-- The counters after one tick (R179). -/
def advanceDot (p : Ppu) : Ppu :=
  if p.cycle + 1 = 341 then
    if p.scanline + 1 = 262 then { p with cycle := 0, scanline := 0, frame := p.frame + 1 }
    else { p with cycle := 0, scanline := p.scanline + 1 }
  else { p with cycle := p.cycle + 1 }

/-- `vbl_events()` at the current position (R180). The two positions differ, so at most one event happens. -/
def vblEvents (s : State) : State :=
  if s.ppu.scanline = 241 ∧ s.ppu.cycle = 1 then
    let edge := decide (s.cfg.params.nmiModel = .vblankEdge) && s.ppu.ctrl.getLsbD 7 && !s.ppu.vblank
    (s.setNmiPending (s.nmiPending || edge)).setPpu { s.ppu with vblank := true }
  else if s.ppu.scanline = 261 ∧ s.ppu.cycle = 1 then
    s.setPpu { s.ppu with vblank := false }
  else s

/-- One pass of the loop of R179: the position advances, then the events at the new position. -/
def tick (s : State) : State := vblEvents (s.setPpu (advanceDot s.ppu))

/-- The loop of R179 on a pending budget of `n` ticks; each pass consumes one. -/
def drain (n : Nat) (s : State) : State :=
  match n with
  | 0 => s
  | k + 1 =>
    let t := tick s
    drain k (t.setPpu { t.ppu with pending := t.ppu.pending - 1 })

/-- `ppu_catch_up(n)` (R179). -/
def catchUp (n : Nat) (s : State) : State :=
  let budget := s.ppu.pending + n
  drain budget (s.setPpu { s.ppu with pending := budget })

/-- `PPU_TICKS_PER_CPU_CYCLE` (00_scope.md R7). -/
def ticksPerCycle (c : Config) : Nat :=
  match c.params.tickRatio with
  | .one => 1
  | .three => 3

/-- The end of a successful step of `c` cycles: `CYC <- CYC + c`, then the picture unit's catch-up (R97). -/
def elapse (c : Nat) (s : State) : State := catchUp (c * ticksPerCycle s.cfg) (s.setCyc (s.cyc + c))

end Sys2Proof.Machine
end

