-- ==== Sys2Proof/Machine/Ops.lean ====
section
/-! DEFINITION. The operations the instruction meanings share: how an instruction ends, taking a step fault, the stack,
taking an interrupt, and returning from one. -/
namespace Sys2Proof.Machine

/-- The three outcomes of an instruction or a step. -/
abbrev Result := Host.Outcome State Fault Refusal

/-- Taking a step fault (60_exceptions.md R169): `FAULT` records the kind and the address of the faulting instruction, which
is PC, since no instruction writes PC before its last access that can fail (40_dispatch.md R102). No cycle passes. The
machine goes to a next state in which `FAULT` is set, and takes no step from there (log 1). -/
def takeFault (k : ErrorKind) (s : State) : Result := .next (s.setFault (some { kind := k, pc := s.pc }))

/-- Go on with the value and state of an access, or take its fault. -/
def Access.run {α : Type} (r : Access α) (f : α → State → Result) : Result :=
  match r with
  | .ok v s => f v s
  | .raise k s => takeFault k s

/-- The end of an instruction: `PC <- pc; return c`, with the rest of the step of R97 (log 9). -/
def complete (pc : Word) (c : Nat) (s : State) : Result := .next (elapse c (s.setPc pc))

/-- The RAM index of the stack byte that `SP = p` addresses: `0x0100 + SP` (10_state.md R16). -/
def stackIndex (p : Byte) : Nat := 0x100 + p.toNat

/-- `push(v)` (40_dispatch.md R104). The stack page is internal RAM (20_memory.md R48); `busWrite_stack` proves that this is
the bus write of the rule (DEDUCED, log 7). -/
def push (v : Byte) (s : State) : State := (s.setRam (s.ram.write (stackIndex s.sp) v)).setSp (s.sp - 1)

/-- `pop()` (R104): SP is incremented, then the byte is read. -/
def pop (s : State) : Byte × State := (s.ram.read (stackIndex (s.sp + 1)), s.setSp (s.sp + 1))

/-- `push16(w)`: the high byte, then the low byte (R104). -/
def push16 (w : Word) (s : State) : State := push (loByte w) (push (hiByte w) s)

/-- `pop16()`: the low byte, then the high byte (R104). -/
def pop16 (s : State) : Word × State :=
  let lo := pop s
  let hi := pop lo.2
  (mkWord hi.1 lo.1, hi.2)

/-- `MemRead(a, 2)` of a vector address in 0x8000-0xFFFF, through the current PRG banking (60_exceptions.md R175); it cannot
fault and has no side effect (20_memory.md R59). `busRead16_vector` proves that this is the bus read of the rule. -/
def readVector (a : Word) (s : State) : Word := mkWord (prgRead (a + 1) s) (prgRead a s)

/-- `0xFFFA`, the NMI vector (R175). -/
def nmiVector : Word := 0xFFFA

/-- `0xFFFC`, the reset vector (R175). -/
def resetVector : Word := 0xFFFC

/-- `0xFFFE`, the BRK vector (R175). -/
def brkVector : Word := 0xFFFE

/-- Taking an interrupt, shared by BRK (45_control.md R158) and the NMI entry (60_exceptions.md R174): push the return
address, push `pack(b)`, set I, load PC from the vector. -/
def enterInterrupt (ret : Word) (b : Bool) (vector : Word) (s : State) : State :=
  let t := push (s.flags.pack b) (push16 ret s)
  (t.setFlags { t.flags with i := true }).setPc (readVector vector t)

/-- The NMI entry: `NMI_PENDING <- false`, PC pushed unadvanced, B pushed as 0, vector 0xFFFA, 7 cycles (R174). -/
def nmiEntry (s : State) : Result :=
  .next (elapse 7 (enterInterrupt s.pc false nmiVector (s.setNmiPending false)))

/-- Returning from an interrupt: the seven flags from the pulled byte, then PC (45_control.md R159, 60_exceptions.md R177). -/
def leaveInterrupt (s : State) : State :=
  let p := pop s
  let r := pop16 (p.2.setFlags (Flags.unpack p.1))
  r.2.setPc r.1

end Sys2Proof.Machine
end

