-- ==== Sys2Proof/Machine/Operands.lean ====
section
/-! DEFINITION. Every operand form: effective addresses, the page-crossing test, the operand primitives and the cycle counts
(30_encoding.md Table R91, 40_dispatch.md R100, R105 to R107). -/
namespace Sys2Proof.Machine

/-- The byte at the zero-page address `n`. Zero page is internal RAM (20_memory.md R48); `busRead_zeroPage` proves that this
is the bus read that Table R91 makes of a pointer byte. -/
def zeroPage (n : Byte) (s : State) : Byte := s.ram.read n.toNat

/-- The 16-bit pointer at the zero-page address `p`: low byte at `p`, high byte at `wrap8(p + 1)` (Table R91). -/
def zeroPagePtr (p : Byte) (s : State) : Word := mkWord (zeroPage (p + 1) s) (zeroPage p s)

/-- The effective address `ea` (Table R91). -/
def ea (l : Loc) (s : State) : Word :=
  match l with
  | .zp n => zext16 n
  | .zpx n => zext16 (n + s.x)
  | .zpy n => zext16 (n + s.y)
  | .abs a => a
  | .absx a => a + zext16 s.x
  | .absy a => a + zext16 s.y
  | .izx n => zeroPagePtr (n + s.x) s
  | .izy n => zeroPagePtr n s + zext16 s.y

/-- `crossed(ref, ea)` with the reference address of Table R91; modes without one never cross (R106). -/
def crossed (l : Loc) (s : State) : Bool :=
  match l with
  | .absx a | .absy a => pagesDiffer a (ea l s)
  | .izy n => pagesDiffer (zeroPagePtr n s) (ea l s)
  | .zp _ | .zpx _ | .zpy _ | .abs _ | .izx _ => false

/-- `load(mode)` of an immediate or memory operand (R100). -/
def load (o : Src) (s : State) : Access Byte :=
  match o with
  | .imm v => .ok v s
  | .mem l => busRead (ea l s) s

/-- The base cycles of an instruction that reads a memory operand: the tables of R111 to R113 and R127 to R135. -/
def Loc.readBase : Loc → Nat
  | .zp _ => 3
  | .zpx _ | .zpy _ | .abs _ | .absx _ | .absy _ => 4
  | .izy _ => 5
  | .izx _ => 6

/-- The cycles of an instruction that reads its operand: base, and 1 more when an indexed read crosses a page (R105, R106). -/
def readCycles (o : Src) (s : State) : Nat :=
  match o with
  | .imm _ => 2
  | .mem l => Loc.readBase l + (crossed l s).toNat

/-- The cycles of a store: the tables of R114 to R116; no page penalty (R106). -/
def Loc.storeCycles : Loc → Nat
  | .zp _ => 3
  | .zpx _ | .zpy _ | .abs _ => 4
  | .absx _ | .absy _ => 5
  | .izx _ | .izy _ => 6

/-- The cycles of a read-modify-write of memory: the tables of R136, R137 and R142 to R145; no page penalty (R106). -/
def RmwLoc.rmwCycles : RmwLoc → Nat
  | .zp _ => 5
  | .zpx _ | .abs _ => 6
  | .absx _ => 7

/-- `next = wrap16(pc + len)` for an instruction of mode `m` (R99). -/
def nextPc (m : Mode) (s : State) : Word := s.pc + BitVec.ofNat 16 m.length

/-- An instruction that reads an operand and writes registers and flags only: `f` gives the state from the operand's value
and the state after the read. -/
def readInstr (o : Src) (f : Byte → State → State) (s : State) : Result :=
  (load o s).run fun v t => complete (nextPc o.mode s) (readCycles o s) (f v t)

/-- An instruction that stores `v` (R114 to R116). -/
def storeInstr (l : Loc) (v : Byte) (s : State) : Result :=
  (busWrite (ea l s) v s).run fun _ t => complete (nextPc l.mode s) (Loc.storeCycles l) t

/-- A read-modify-write of memory: one read and one write of the same address (R85, R101); `r` gives the byte written and `g`
the flags, each from the byte read. -/
def rmwInstr (l : RmwLoc) (r : Byte → Byte) (g : Flags → Byte → Flags) (s : State) : Result :=
  let a := ea l.loc s
  (busRead a s).run fun v t =>
    (busWrite a (r v) t).run fun _ u =>
      complete (nextPc l.loc.mode s) (RmwLoc.rmwCycles l) (u.setFlags (g u.flags v))

/-- A shift or rotate of A, or of memory (R142 to R145). -/
def shiftInstr (o : ShiftDst) (r : Byte → Byte) (g : Flags → Byte → Flags) (s : State) : Result :=
  match o with
  | .acc => complete (nextPc .acc s) 2 ((s.setA (r s.a)).setFlags (g s.flags s.a))
  | .mem l => rmwInstr l r g s

/-- The target of a relative branch: `wrap16(pc + 2 + sext_8(off))` (Table R91). -/
def branchTarget (off : Byte) (s : State) : Word := s.pc + 2 + sext16 off

/-- The page test of a taken branch between `pc + 2` and the target (R107). -/
def branchCrosses (rule : BranchPageRule) (p q : Word) : Bool :=
  match rule with
  | .highByte => pagesDiffer p q
  | .sourceMaskF0 => (p &&& 0x00F0) != (q &&& 0x00F0)

/-- A conditional branch (45_control.md R149). -/
def branchInstr (cond : Bool) (off : Byte) (s : State) : Result :=
  if cond then
    complete (branchTarget off s)
      (2 + 1 + (branchCrosses s.cfg.params.branchPageRule (s.pc + 2) (branchTarget off s)).toNat) s
  else complete (s.pc + 2) 2 s

/-- The two pointer reads of JMP indirect: the high byte comes from the start of the same page when the pointer ends in 0xFF
(Table R91, R146). -/
def readIndirect (q : Word) (s : State) : Access Word :=
  (busRead q s).andThen fun lo t =>
    (busRead (mkWord (hiByte q) (loByte q + 1)) t).andThen fun hi u => .ok (mkWord hi lo) u

/-- ADC and SBC fault when D is set and `DECIMAL_POLICY` is `Refuse` (R127, R128). -/
def decimalTrap (s : State) : Bool := decide (s.cfg.params.decimalPolicy = .refuse) && s.flags.d

end Sys2Proof.Machine
end

