-- ==== Sys2Proof/Machine/Arith.lean ====
section
/-! DEFINITION. Arithmetic, logic, compare, bit test, increment and decrement (43_arith_logic.md). -/
namespace Sys2Proof.Machine

/-- ADC (R127): the decimal check comes before any operand access. -/
def execAdc (o : Src) (s : State) : Result :=
  if decimalTrap s then takeFault (.decimalUnsupported s.pc) s
  else readInstr o (fun m t => (t.setA (adcResult t.a m t.flags.c)).setFlags (t.flags.adc t.a m)) s

/-- SBC (R128): the decimal check comes before any operand access. -/
def execSbc (o : Src) (s : State) : Result :=
  if decimalTrap s then takeFault (.decimalUnsupported s.pc) s
  else readInstr o (fun m t => (t.setA (sbcResult t.a m t.flags.c)).setFlags (t.flags.sbc t.a m)) s

/-- AND (R129). -/
def execAnd (o : Src) (s : State) : Result :=
  readInstr o (fun m t => (t.setA (t.a &&& m)).setFlags (t.flags.setZN (t.a &&& m))) s

/-- ORA (R130). -/
def execOra (o : Src) (s : State) : Result :=
  readInstr o (fun m t => (t.setA (t.a ||| m)).setFlags (t.flags.setZN (t.a ||| m))) s

/-- EOR (R131). -/
def execEor (o : Src) (s : State) : Result :=
  readInstr o (fun m t => (t.setA (t.a ^^^ m)).setFlags (t.flags.setZN (t.a ^^^ m))) s

/-- CMP (R132). -/
def execCmp (o : Src) (s : State) : Result := readInstr o (fun m t => t.setFlags (t.flags.compare t.a m)) s

/-- CPX (R133). -/
def execCpx (o : Src) (s : State) : Result := readInstr o (fun m t => t.setFlags (t.flags.compare t.x m)) s

/-- CPY (R134). -/
def execCpy (o : Src) (s : State) : Result := readInstr o (fun m t => t.setFlags (t.flags.compare t.y m)) s

/-- BIT (R135). -/
def execBit (l : Loc) (s : State) : Result := readInstr (.mem l) (fun m t => t.setFlags (t.flags.bitTest t.a m)) s

/-- INC (R136). -/
def execInc (l : RmwLoc) (s : State) : Result := rmwInstr l (fun m => m + 1) (fun f m => f.setZN (m + 1)) s

/-- DEC (R137). -/
def execDec (l : RmwLoc) (s : State) : Result := rmwInstr l (fun m => m - 1) (fun f m => f.setZN (m - 1)) s

/-- INX (R138). -/
def execInx (s : State) : Result := complete (nextPc .imp s) 2 ((s.setX (s.x + 1)).setFlags (s.flags.setZN (s.x + 1)))

/-- INY (R139). -/
def execIny (s : State) : Result := complete (nextPc .imp s) 2 ((s.setY (s.y + 1)).setFlags (s.flags.setZN (s.y + 1)))

/-- DEX (R140). -/
def execDex (s : State) : Result := complete (nextPc .imp s) 2 ((s.setX (s.x - 1)).setFlags (s.flags.setZN (s.x - 1)))

/-- DEY (R141). -/
def execDey (s : State) : Result := complete (nextPc .imp s) 2 ((s.setY (s.y - 1)).setFlags (s.flags.setZN (s.y - 1)))

end Sys2Proof.Machine
end

