-- ==== Sys2Proof/Machine/Control.lean ====
section
/-! DEFINITION. Jumps, subroutines, branches, break, return from interrupt (45_control.md), and the unsupported opcode
(30_encoding.md R93). -/
namespace Sys2Proof.Machine

/-- JMP (R146). -/
def execJmp (t : JmpTarget) (s : State) : Result :=
  match t with
  | .abs a => complete a 3 s
  | .ind q => (readIndirect q s).run fun w t => complete w 5 t

/-- JSR: pushes the address of its own last byte (R147). -/
def execJsr (a : Word) (s : State) : Result := complete a 6 (push16 (s.pc + 2) s)

/-- RTS (R148). -/
def execRts (s : State) : Result :=
  let r := pop16 s
  complete (r.1 + 1) 6 r.2

/-- BPL (R150). -/
def execBpl (off : Byte) (s : State) : Result := branchInstr (!s.flags.n) off s

/-- BMI (R151). -/
def execBmi (off : Byte) (s : State) : Result := branchInstr s.flags.n off s

/-- BVC (R152). -/
def execBvc (off : Byte) (s : State) : Result := branchInstr (!s.flags.v) off s

/-- BVS (R153). -/
def execBvs (off : Byte) (s : State) : Result := branchInstr s.flags.v off s

/-- BCC (R154). -/
def execBcc (off : Byte) (s : State) : Result := branchInstr (!s.flags.c) off s

/-- BCS (R155). -/
def execBcs (off : Byte) (s : State) : Result := branchInstr s.flags.c off s

/-- BNE (R156). -/
def execBne (off : Byte) (s : State) : Result := branchInstr (!s.flags.z) off s

/-- BEQ (R157). -/
def execBeq (off : Byte) (s : State) : Result := branchInstr s.flags.z off s

/-- BRK: the byte after the opcode is skipped as padding; B is pushed as 1 (R158). -/
def execBrk (s : State) : Result := .next (elapse 7 (enterInterrupt (s.pc + 2) true brkVector s))

/-- RTI (R159). -/
def execRti (s : State) : Result := .next (elapse 6 (leaveInterrupt s))

/-- An opcode with no registered handler (R93, 40_dispatch.md R98). -/
def execUnsupported (op : Byte) (s : State) : Result := takeFault (.unsupportedOpcode op s.pc) s

end Sys2Proof.Machine
end

