-- ==== Sys2Proof/Machine/FlagOps.lean ====
section
/-! DEFINITION. Flag instructions and NOP (46_flags_misc.md). -/
namespace Sys2Proof.Machine

/-- CLC (R160). -/
def execClc (s : State) : Result := complete (nextPc .imp s) 2 (s.setFlags { s.flags with c := false })

/-- SEC (R161). -/
def execSec (s : State) : Result := complete (nextPc .imp s) 2 (s.setFlags { s.flags with c := true })

/-- CLI (R162). -/
def execCli (s : State) : Result := complete (nextPc .imp s) 2 (s.setFlags { s.flags with i := false })

/-- SEI (R163). -/
def execSei (s : State) : Result := complete (nextPc .imp s) 2 (s.setFlags { s.flags with i := true })

/-- CLV (R164). -/
def execClv (s : State) : Result := complete (nextPc .imp s) 2 (s.setFlags { s.flags with v := false })

/-- CLD (R165). -/
def execCld (s : State) : Result := complete (nextPc .imp s) 2 (s.setFlags { s.flags with d := false })

/-- SED (R166). -/
def execSed (s : State) : Result := complete (nextPc .imp s) 2 (s.setFlags { s.flags with d := true })

/-- NOP (R167). -/
def execNop (s : State) : Result := complete (nextPc .imp s) 2 s

end Sys2Proof.Machine
end

