-- ==== Sys2Proof/Machine/LoadStore.lean ====
section
/-! DEFINITION. Loads, stores and register transfers (41_load_store.md). -/
namespace Sys2Proof.Machine

/-- LDA (R111). -/
def execLda (o : Src) (s : State) : Result := readInstr o (fun v t => (t.setA v).setFlags (t.flags.setZN v)) s

/-- LDX (R112). -/
def execLdx (o : Src) (s : State) : Result := readInstr o (fun v t => (t.setX v).setFlags (t.flags.setZN v)) s

/-- LDY (R113). -/
def execLdy (o : Src) (s : State) : Result := readInstr o (fun v t => (t.setY v).setFlags (t.flags.setZN v)) s

/-- STA (R114). -/
def execSta (l : Loc) (s : State) : Result := storeInstr l s.a s

/-- STX (R115). -/
def execStx (l : Loc) (s : State) : Result := storeInstr l s.x s

/-- STY (R116). -/
def execSty (l : Loc) (s : State) : Result := storeInstr l s.y s

/-- TAX (R117). -/
def execTax (s : State) : Result := complete (nextPc .imp s) 2 ((s.setX s.a).setFlags (s.flags.setZN s.a))

/-- TAY (R118). -/
def execTay (s : State) : Result := complete (nextPc .imp s) 2 ((s.setY s.a).setFlags (s.flags.setZN s.a))

/-- TXA (R119). -/
def execTxa (s : State) : Result := complete (nextPc .imp s) 2 ((s.setA s.x).setFlags (s.flags.setZN s.x))

/-- TYA (R120). -/
def execTya (s : State) : Result := complete (nextPc .imp s) 2 ((s.setA s.y).setFlags (s.flags.setZN s.y))

/-- TSX (R121). -/
def execTsx (s : State) : Result := complete (nextPc .imp s) 2 ((s.setX s.sp).setFlags (s.flags.setZN s.sp))

/-- TXS: no flag is written (R122, 90_conflicts.md C5). -/
def execTxs (s : State) : Result := complete (nextPc .imp s) 2 (s.setSp s.x)

end Sys2Proof.Machine
end

