-- ==== Sys2Proof/Machine/Shift.lean ====
section
/-! DEFINITION. Shifts and rotates (44_shift.md). -/
namespace Sys2Proof.Machine

/-- ASL (R142). -/
def execAsl (o : ShiftDst) (s : State) : Result := shiftInstr o aslResult Flags.asl s

/-- LSR (R143). -/
def execLsr (o : ShiftDst) (s : State) : Result := shiftInstr o lsrResult Flags.lsr s

/-- ROL (R144). -/
def execRol (o : ShiftDst) (s : State) : Result := shiftInstr o (rolResult s.flags.c) Flags.rol s

/-- ROR (R145). -/
def execRor (o : ShiftDst) (s : State) : Result := shiftInstr o (rorResult s.flags.c) Flags.ror s

end Sys2Proof.Machine
end

