-- ==== Sys2Proof/Machine/Stack.lean ====
section
/-! DEFINITION. Stack instructions (42_stack.md). -/
namespace Sys2Proof.Machine

/-- PHA (R123). -/
def execPha (s : State) : Result := complete (nextPc .imp s) 3 (push s.a s)

/-- PHP: the pushed B is 1 whatever the stored B is (R124). -/
def execPhp (s : State) : Result := complete (nextPc .imp s) 3 (push (s.flags.pack true) s)

/-- PLA (R125). -/
def execPla (s : State) : Result :=
  let p := pop s
  complete (nextPc .imp s) 4 ((p.2.setA p.1).setFlags (s.flags.setZN p.1))

/-- PLP (R126). -/
def execPlp (s : State) : Result :=
  let p := pop s
  complete (nextPc .imp s) 4 (p.2.setFlags (Flags.unpack p.1))

end Sys2Proof.Machine
end

