-- ==== Sys2Proof/Machine/Fetch.lean ====
section
/-! DEFINITION. Fetching and decoding the instruction at PC (40_dispatch.md R98, R101), and placing an instruction where it is
fetched. -/
namespace Sys2Proof.Machine

/-- The opcode byte is in `HANDLED`: one of the 151 documented opcodes, and not omitted (R98, 30_encoding.md R93). -/
def handled (op : Byte) (c : Config) : Bool := documented op && !c.params.omitted.contains op

/-- The opcode byte is one of ADC's or SBC's. -/
def isDecimalOp (op : Byte) : Bool :=
  match decodeOp op 0 0 with
  | .adc _ | .sbc _ => true
  | _ => false

/-- Fetch the operand bytes that the length needs, `pc + 1` then `pc + 2` (R101), and decode. -/
def fetchOperands (op : Byte) (pc : Word) (s : State) : Access Instr :=
  match opcodeLength op with
  | 2 => (busRead (pc + 1) s).andThen fun b1 t => .ok (decodeOp op b1 0) t
  | 3 =>
    (busRead (pc + 1) s).andThen fun b1 t => (busRead (pc + 2) t).andThen fun b2 u => .ok (decodeOp op b1 b2) u
  | _ => .ok (decodeOp op 0 0) s

/-- The instruction at PC and the state its fetches leave (R98). The checks come in the order of 60_exceptions.md R176: the
opcode fetch, `UnsupportedOpcode` (no operand byte is fetched), `DecimalUnsupported`, then the operand fetches (log 8). -/
def fetch (s : State) : Access Instr :=
  (busRead s.pc s).andThen fun op t =>
    if !handled op t.cfg then .ok (.unsupported op) t
    else if isDecimalOp op && decimalTrap t then .raise (.decimalUnsupported s.pc) t
    else fetchOperands op s.pc t

/-- A byte at `a` can be placed, and fetched back with no side effect: `a` is in RAM, enabled PRG-RAM or PRG-ROM. -/
def placeable (a : Word) (s : State) : Bool :=
  match resolve a with
  | .ram _ | .prgRom => true
  | .prgRam _ => (accessFault a s).isNone
  | .ppu _ | .apuIo | .testRegion | .cartUnused => false

/-- `s` with the byte `v` stored where a fetch from `a` reads it; in 0x8000-0xFFFF that is the cartridge's PRG-ROM image. -/
def placeByte (a : Word) (v : Byte) (s : State) : State :=
  match resolve a with
  | .ram i => s.setRam (s.ram.write i v)
  | .prgRam i => s.setPrgRam (s.prgRam.write i v)
  | .prgRom => { s with cfg := { s.cfg with prgRom := s.cfg.prgRom.write (prgOffset a s) v } }
  | .ppu _ | .apuIo | .testRegion | .cartUnused => s

/-- `s` made ready to run the instruction whose bytes are `b0 b1 b2`: no fault recorded, no NMI pending, `b0` not omitted from
`HANDLED`, PC kept where its three bytes can be placed and else moved to 0x0200 in RAM, and the bytes stored there (log 16). -/
def placeInstr (b0 b1 b2 : Byte) (s : State) : State :=
  let params := { s.cfg.params with omitted := s.cfg.params.omitted.filter (· != b0) }
  let r : State := { s with fault := none, nmiPending := false, cfg := { s.cfg with params := params } }
  let p := if placeable r.pc r && placeable (r.pc + 1) r && placeable (r.pc + 2) r then r.pc else 0x0200
  placeByte (p + 2) b2 (placeByte (p + 1) b1 (placeByte p b0 (r.setPc p)))

end Sys2Proof.Machine
end

