-- ==== Sys2Proof/Machine/Step.lean ====
section
/-! DEFINITION. The system step (40_dispatch.md R97). -/
namespace Sys2Proof.Machine

/-- One step: none if `FAULT` is set (R97, 60_exceptions.md R170); else the NMI entry if one is pending; else the instruction
at PC (60_exceptions.md R176). -/
def step (s : State) : Host.Outcome State Fault Refusal :=
  match s.fault with
  | some r => .fault (.quiescent r)
  | none =>
    if s.cfg.params.nmiModel = .vblankEdge ∧ s.nmiPending = true then nmiEntry s
    else (fetch s).run exec

/-- `s` with the instruction whose bits are `w` (first byte lowest, zero from bit `nbits` on) stored where the next step fetches
its instruction, and nothing pending that would keep the next step from running it (log 16). -/
def State.withFetchWord (s : State) (nbits w : Nat) : State :=
  let v := w % 2 ^ nbits
  placeInstr (BitVec.ofNat 8 v) (BitVec.ofNat 8 (v / 2 ^ 8)) (BitVec.ofNat 8 (v / 2 ^ 16)) s

end Sys2Proof.Machine
end

