-- ==== Sys2Proof/Machine/Errors.lean ====
section
/-! DEFINITION. The codes and classes of 60_exceptions.md Table R168. -/
namespace Sys2Proof.Machine

/-- The code column of Table R168. -/
def ErrorKind.code : ErrorKind → Nat
  | .addressOutOfBounds _ => 1
  | .unsupportedOpcode _ _ => 2
  | .invalidBankMode _ => 3
  | .ramDisabled _ => 4
  | .inconsistentPrgSize _ _ | .inconsistentChrSize _ => 5
  | .inconsistentRamSize _ => 6
  | .unknownMapper _ => 7
  | .invalidAddressingMode _ => 8
  | .unknownMnemonic _ | .unknownMode _ => 9
  | .unreadablePpuReg _ | .unwriteablePpuReg _ => 10
  | .decimalUnsupported _ => 11

/-- The class column of Table R168. -/
inductive ErrorClass where
  | stepFault | unreachable | constructionError | hostError
  deriving DecidableEq, Repr

/-- The class of a kind (Table R168). -/
def ErrorKind.errorClass : ErrorKind → ErrorClass
  | .addressOutOfBounds _ | .unsupportedOpcode _ _ | .ramDisabled _ | .decimalUnsupported _ => .stepFault
  | .invalidBankMode _ | .unreadablePpuReg _ | .unwriteablePpuReg _ => .unreachable
  | .inconsistentPrgSize _ _ | .inconsistentChrSize _ | .inconsistentRamSize _ | .unknownMapper _ => .constructionError
  | .invalidAddressingMode _ | .unknownMnemonic _ | .unknownMode _ => .hostError

end Sys2Proof.Machine
end

