-- ==== Sys2Proof/Machine/HostOps.lean ====
section
/-! DEFINITION. The operations the core offers its driver beside `step` (40_dispatch.md R108), with the assembler syntax of
30_encoding.md R95. A host error is returned and leaves `FAULT` unchanged. -/
namespace Sys2Proof.Machine

/-- `read_address(addr)`: the bus read, with its side effects or its fault; `FAULT` is not set (R108). -/
def readAddress (addr : Word) (s : State) : Access Byte := busRead addr s

/-- `opcode_length(addr)`: reads one byte; `InvalidAddressingMode` for an unsupported opcode (R108; DEDUCED, log 11). -/
def opcodeLengthAt (addr : Word) (s : State) : Access Nat :=
  (busRead addr s).andThen fun op t =>
    if handled op t.cfg then .ok (opcodeLength op) t else .raise (.invalidAddressingMode op) t

/-- `RegisterSnapshot`: a plain value copy, the stored B flag included (R108). -/
structure Snapshot where
  pc    : Word
  sp    : Byte
  x     : Byte
  y     : Byte
  a     : Byte
  flags : Flags
  deriving DecidableEq, Repr

/-- `snapshot_registers()` (R108). -/
def snapshotRegisters (s : State) : Snapshot := { pc := s.pc, sp := s.sp, x := s.x, y := s.y, a := s.a, flags := s.flags }

/-- One upper-case hexadecimal digit. -/
def hexDigit (n : Nat) : Char := ['0', '1', '2', '3', '4', '5', '6', '7', '8', '9', 'A', 'B', 'C', 'D', 'E', 'F'].getD n '0'

/-- A byte as `$nn` (R95). -/
def hexByte (b : Byte) : String := "$" ++ String.ofList [hexDigit (b.toNat / 16), hexDigit (b.toNat % 16)]

/-- A 16-bit value as `$nnnn` (R95). -/
def hexWord (w : Word) : String :=
  "$" ++ String.ofList [hexDigit (w.toNat / 4096), hexDigit (w.toNat / 256 % 16), hexDigit (w.toNat / 16 % 16),
    hexDigit (w.toNat % 16)]

/-- The operand text of a memory operand (Table R95). -/
def Loc.render : Loc → String
  | .zp n => hexByte n
  | .zpx n => hexByte n ++ ",X"
  | .zpy n => hexByte n ++ ",Y"
  | .abs a => hexWord a
  | .absx a => hexWord a ++ ",X"
  | .absy a => hexWord a ++ ",Y"
  | .izx n => "(" ++ hexByte n ++ ",X)"
  | .izy n => "(" ++ hexByte n ++ "),Y"

/-- The operand text of a read operand. -/
def Src.render : Src → String
  | .imm v => "#" ++ hexByte v
  | .mem l => Loc.render l

/-- The operand text of a shift operand. -/
def ShiftDst.render : ShiftDst → String
  | .acc => "A"
  | .mem l => Loc.render l.loc

/-- The text of the instruction `i` at `addr` (R95): mnemonic, a space and the operand; a branch is written with its target. -/
def disassembleInstr (addr : Word) (i : Instr) : String :=
  let rel (m : String) (off : Byte) : String := m ++ " " ++ hexWord (addr + 2 + sext16 off)
  match i with
  | .lda o => "LDA " ++ Src.render o
  | .ldx o => "LDX " ++ Src.render o
  | .ldy o => "LDY " ++ Src.render o
  | .sta l => "STA " ++ Loc.render l
  | .stx l => "STX " ++ Loc.render l
  | .sty l => "STY " ++ Loc.render l
  | .tax => "TAX"
  | .tay => "TAY"
  | .txa => "TXA"
  | .tya => "TYA"
  | .tsx => "TSX"
  | .txs => "TXS"
  | .pha => "PHA"
  | .php => "PHP"
  | .pla => "PLA"
  | .plp => "PLP"
  | .adc o => "ADC " ++ Src.render o
  | .sbc o => "SBC " ++ Src.render o
  | .and o => "AND " ++ Src.render o
  | .ora o => "ORA " ++ Src.render o
  | .eor o => "EOR " ++ Src.render o
  | .cmp o => "CMP " ++ Src.render o
  | .cpx o => "CPX " ++ Src.render o
  | .cpy o => "CPY " ++ Src.render o
  | .bit l => "BIT " ++ Loc.render l
  | .inc l => "INC " ++ Loc.render l.loc
  | .dec l => "DEC " ++ Loc.render l.loc
  | .inx => "INX"
  | .iny => "INY"
  | .dex => "DEX"
  | .dey => "DEY"
  | .asl o => "ASL " ++ ShiftDst.render o
  | .lsr o => "LSR " ++ ShiftDst.render o
  | .rol o => "ROL " ++ ShiftDst.render o
  | .ror o => "ROR " ++ ShiftDst.render o
  | .jmp (.abs a) => "JMP " ++ hexWord a
  | .jmp (.ind q) => "JMP (" ++ hexWord q ++ ")"
  | .jsr a => "JSR " ++ hexWord a
  | .rts => "RTS"
  | .bpl off => rel "BPL" off
  | .bmi off => rel "BMI" off
  | .bvc off => rel "BVC" off
  | .bvs off => rel "BVS" off
  | .bcc off => rel "BCC" off
  | .bcs off => rel "BCS" off
  | .bne off => rel "BNE" off
  | .beq off => rel "BEQ" off
  | .brk => "BRK"
  | .rti => "RTI"
  | .clc => "CLC"
  | .sec => "SEC"
  | .cli => "CLI"
  | .sei => "SEI"
  | .clv => "CLV"
  | .cld => "CLD"
  | .sed => "SED"
  | .nop => "NOP"
  | .unsupported op => "UNSUPPORTED " ++ hexByte op

/-- `disassemble(addr)`: reads 1 to 3 bytes; `UnknownMnemonic`/`UnknownMode` for an unsupported opcode (R108; DEDUCED,
log 11 and 17). -/
def disassemble (addr : Word) (s : State) : Access String :=
  (busRead addr s).andThen fun op t =>
    if handled op t.cfg then
      (fetchOperands op addr t).andThen fun i u => .ok (disassembleInstr addr i) u
    else .raise (.unknownMnemonic op) t

end Sys2Proof.Machine
end

