-- ==== Sys2Proof/Machine/Construct.lean ====
section
/-! DEFINITION. Construction from a cartridge image, with its checks, and boot (70_reset_and_hazards.md R189, R190). -/
namespace Sys2Proof.Machine

/-- The cartridge image that construction takes (00_scope.md Table R7); the byte strings are of any length until checked. -/
structure Image where
  prgBanks    : BankCount
  prgRom      : List Byte
  chrRom      : List Byte
  prgRamUnits : Nat
  mapperId    : Nat
  mirrorInit  : Mirroring
  deriving DecidableEq, Repr

/-- `POWER_ON`: the values that no rule gives (10_state.md R41). A string of cells is taken from index 0; cells past its end
are 0, and cells past the memory's size are dropped (log 4). -/
structure PowerOn where
  a          : Byte
  x          : Byte
  y          : Byte
  sp         : Byte
  flags      : Flags
  ram        : List Byte
  prgRam     : List Byte
  chrRam     : List Byte
  ppuLatch   : Byte
  ppuReadbuf : Byte
  ppuOamaddr : Byte
  ppuV       : BitVec 15
  ppuT       : BitVec 15
  ppuX       : BitVec 3
  ppuVblank  : Bool
  oam        : List Byte
  ciram      : List Byte
  pal        : List (BitVec 6)
  deriving DecidableEq, Repr

/-- The first construction check that fails, in the order of R189 (log 14). -/
def imageError (img : Image) : Option ErrorKind :=
  if img.prgBanks.val < 1 ∨ img.prgRom.length ≠ img.prgBanks.val * 16384 then
    some (.inconsistentPrgSize img.prgBanks.val img.prgRom.length)
  else if img.chrRom.length % 8192 ≠ 0 then some (.inconsistentChrSize img.chrRom.length)
  else if ¬ (img.prgRamUnits = 0 ∨ img.prgRamUnits = 1) then some (.inconsistentRamSize img.prgRamUnits)
  else if img.mapperId ≠ 1 then some (.unknownMapper img.mapperId)
  else none

/-- The configuration of an image and parameters. -/
def configOf (img : Image) (params : Params) : Config :=
  { prgBanks := img.prgBanks, prgRom := Memory.ofList img.prgRom.length img.prgRom
    chrRomLen := img.chrRom.length, chrRom := Memory.ofList img.chrRom.length img.chrRom
    hasPrgRam := img.prgRamUnits == 1, mirrorInit := img.mirrorInit, params := params }

/-- The state built before boot (10_state.md Table R42). Absent memories hold nothing. -/
def built (c : Config) (d : PowerOn) : State :=
  { cfg := c
    a := d.a, x := d.x, y := d.y, sp := d.sp, pc := 0, flags := d.flags
    cyc := 0, nmiPending := false, fault := none
    ram := Memory.ofList 2048 d.ram
    prgRam := if c.hasPrgRam then Memory.ofList 8192 d.prgRam else []
    chrRam := if chrIsRam c then Memory.ofList 8192 d.chrRam else []
    map := { shift := shiftMarker, control := 0x0C ||| mirroringCode c.mirrorInit, chr0 := 0, chr1 := 0, prg := 0 }
    ppu :=
      { scanline := 261, cycle := 0, frame := 0, pending := 0, mirroring := c.mirrorInit, latch := d.ppuLatch
        vblank := d.ppuVblank, ctrl := 0, mask := 0, v := d.ppuV, t := d.ppuT, x := d.ppuX, w := false
        readbuf := d.ppuReadbuf, oamaddr := d.ppuOamaddr, oam := Memory.ofList 256 d.oam
        ciram := Memory.ofList 2048 d.ciram, pal := Memory.ofList 32 d.pal }
    spriteDraws := 0 }

/-- `boot()`: PC from the reset vector through the just-constructed mapper; no cycle passes (R190). -/
def boot (s : State) : State := (s.setPc (readVector resetVector s)).setCyc 0

/-- `construct(img, POWER_ON)` (R189): a state, or the construction error. -/
def construct (img : Image) (params : Params) (d : PowerOn) : Except ErrorKind State :=
  match imageError img with
  | some k => .error k
  | none => .ok (boot (built (configOf img params) d))

/-- The draws of `State.reset`: all 0 (log 4). -/
def zeroDraws : PowerOn :=
  { a := 0, x := 0, y := 0, sp := 0
    flags := { n := false, v := false, b := false, d := false, i := false, z := false, c := false }
    ram := [], prgRam := [], chrRam := [], ppuLatch := 0, ppuReadbuf := 0, ppuOamaddr := 0, ppuV := 0, ppuT := 0, ppuX := 0
    ppuVblank := false, oam := [], ciram := [], pal := [] }

/-- The image of `State.reset`: one PRG bank of zero bytes, PRG-RAM, no CHR-ROM, mapper 1, Horizontal mirroring (log 3). -/
def resetImage : Image :=
  { prgBanks := 1, prgRom := List.replicate 16384 0, chrRom := [], prgRamUnits := 1, mapperId := 1, mirrorInit := .horizontal }

end Sys2Proof.Machine
end

