-- ==== Sys2Proof/Safety.lean ====
section
/-! DEFINITION. The terms claims use: the invariant of the state, runs and their end (40_dispatch.md R110), the cells of memory,
and what an instruction may write. -/
namespace Sys2Proof.Machine

/-! The invariant -/

/-- A memory in canonical form with every listed index below `size`. -/
def fits {w : Nat} (size : Nat) (m : Memory w) : Bool := m.wf && m.within size

/-- What holds of every state the core can be in. `ramFits` to `palFits`: each memory in canonical form and inside its size
(10_state.md R25 to R28, R39, R40), an absent one empty; `dotInRange`: `0 ≤ scanline ≤ 261` and `0 ≤ cycle ≤ 340`, and no
catch-up is running (R31); `shiftMarked`: the shift register holds its marker at bit 4 or below and nothing above bit 4 (R29);
`mirroringCopied`: the picture unit's mirroring is the one of the control register (20_memory.md R57); `noNmiWithoutModel`
(R23); `banksInDomain`: `PRG_BANKS` is 1 to 256 (00_scope.md Table R7); `chrLength`: the construction check of
70_reset_and_hazards.md R189. -/
structure Inv (s : State) : Prop where
  ramFits : fits 2048 s.ram = true
  prgRamFits : fits (if s.cfg.hasPrgRam then 8192 else 0) s.prgRam = true
  chrRamFits : fits (if chrIsRam s.cfg then 8192 else 0) s.chrRam = true
  prgRomFits : fits (s.cfg.prgBanks.val * 16384) s.cfg.prgRom = true
  chrRomFits : fits s.cfg.chrRomLen s.cfg.chrRom = true
  oamFits : fits 256 s.ppu.oam = true
  ciramFits : fits 2048 s.ppu.ciram = true
  palFits : fits 32 s.ppu.pal = true
  dotInRange : s.ppu.scanline ≤ 261 ∧ s.ppu.cycle ≤ 340 ∧ s.ppu.pending = 0
  shiftMarked : 1 ≤ s.map.shift.toNat ∧ s.map.shift.toNat ≤ 31
  mirroringCopied : s.ppu.mirroring = mirroringOf s.map.control
  noNmiWithoutModel : s.cfg.params.nmiModel = .none → s.nmiPending = false
  banksInDomain : 1 ≤ s.cfg.prgBanks.val ∧ s.cfg.prgBanks.val ≤ 256
  chrLength : s.cfg.chrRomLen % 8192 = 0

/-! Runs -/

/-- `n` steps from `s` all run and no fault is recorded at their end, which is `t`: the core has not faulted (R110: a faulted
state is never a successful end). -/
def RunsTo (n : Nat) (s t : State) : Prop := Host.Core.run core n s = .next t ∧ t.fault = none

/-- A run that ends at the stop address `stop` without a fault (R110 (b)). -/
def EndsAt (stop : Word) (s : State) : Prop := ∃ n t, RunsTo n s t ∧ t.pc = stop

/-- The bytes at `a` can be fetched, and fetching one has no side effect: RAM, PRG-RAM that is present and enabled, or PRG-ROM.
The value is the byte a fetch reads. -/
def fetchByte (a : Word) (s : State) : Option Byte :=
  match resolve a with
  | .ram i => some (s.ram.read i)
  | .prgRom => some (prgRead a s)
  | .prgRam i => if (accessFault a s).isNone then some (s.prgRam.read i) else none
  | .ppu _ | .apuIo | .testRegion | .cartUnused => none

/-! The cells of memory, and what an instruction may write -/

/-- One writable cell of one memory: the five byte memories and the palette. PRG-ROM and CHR-ROM are part of the configuration. -/
inductive Cell where
  | ram (i : Nat)
  | prgRam (i : Nat)
  | chrRam (i : Nat)
  | oam (i : Nat)
  | ciram (i : Nat)
  | pal (i : Nat)
  deriving DecidableEq, Repr

/-- The value of a cell; a palette entry has bits 7:6 zero. -/
def cellRead (c : Cell) (s : State) : Byte :=
  match c with
  | .ram i => s.ram.read i
  | .prgRam i => s.prgRam.read i
  | .chrRam i => s.chrRam.read i
  | .oam i => s.ppu.oam.read i
  | .ciram i => s.ppu.ciram.read i
  | .pal i => (s.ppu.pal.read i).setWidth 8

/-- The cell that a write to the PPU address `a` stores in; a write to CHR-ROM stores in none (20_memory.md R61, R79). -/
def ppuCell (a : BitVec 14) (s : State) : Option Cell :=
  match ppuResolve s.ppu.mirroring a with
  | .chr n => if chrIsRam s.cfg then some (.chrRam (chrIndex n s)) else none
  | .ciram i => some (.ciram i)
  | .palette i => some (.pal i)

/-- The cell that a CPU write to `a` stores in, if it stores in one (20_memory.md Table R47, R71, R76). -/
def storedCell (a : Word) (s : State) : Option Cell :=
  match resolve a with
  | .ram i => some (.ram i)
  | .prgRam i => some (.prgRam i)
  | .ppu .oamData => some (.oam s.ppu.oamaddr.toNat)
  | .ppu .data => ppuCell (vramAddr s.ppu) s
  | .ppu _ | .apuIo | .testRegion | .cartUnused | .prgRom => none

/-- The address of the one data write an instruction makes through the bus. -/
def dataWriteAddr (i : Instr) (s : State) : Option Word :=
  match i with
  | .sta l | .stx l | .sty l => some (ea l s)
  | .inc l | .dec l => some (ea l.loc s)
  | .asl (.mem l) | .lsr (.mem l) | .rol (.mem l) | .ror (.mem l) => some (ea l.loc s)
  | _ => none

/-- The address of the one data read an instruction makes through the bus, pointer reads of JMP apart. -/
def dataReadAddr (i : Instr) (s : State) : Option Word :=
  match i with
  | .lda (.mem l) | .ldx (.mem l) | .ldy (.mem l) | .adc (.mem l) | .sbc (.mem l) | .and (.mem l) | .ora (.mem l)
  | .eor (.mem l) | .cmp (.mem l) | .cpx (.mem l) | .cpy (.mem l) | .bit l => some (ea l s)
  | .inc l | .dec l => some (ea l.loc s)
  | .asl (.mem l) | .lsr (.mem l) | .rol (.mem l) | .ror (.mem l) => some (ea l.loc s)
  | _ => none

/-- The state in which an instruction makes its data write: after its data read, if it has one (40_dispatch.md R101). -/
def beforeDataWrite (i : Instr) (s : State) : State :=
  match dataReadAddr i s with
  | none => s
  | some a =>
    match busRead a s with
    | .ok _ t => t
    | .raise _ t => t

/-- The cell of an instruction's data write, if it makes one that stores in a cell. -/
def dataCell (i : Instr) (s : State) : Option Cell :=
  match dataWriteAddr i s with
  | none => none
  | some a => storedCell a (beforeDataWrite i s)

/-- The stack cells an instruction pushes to, in the order of the pushes (40_dispatch.md R104). -/
def pushedCells (i : Instr) (s : State) : List Cell :=
  match i with
  | .pha | .php => [.ram (stackIndex s.sp)]
  | .jsr _ => [.ram (stackIndex s.sp), .ram (stackIndex (s.sp - 1))]
  | .brk => [.ram (stackIndex s.sp), .ram (stackIndex (s.sp - 1)), .ram (stackIndex (s.sp - 2))]
  | _ => []

/-- An access to `a` reaches the picture unit. -/
def reachesPpu (a : Word) : Bool := decide (0x2000 ≤ a.toNat ∧ a.toNat < 0x4000)

/-- A write to `a` reaches the bank-switching controller. -/
def reachesMapper (a : Word) : Bool := decide (0x8000 ≤ a.toNat)

/-- The instruction's data accesses, pointer reads of JMP included, may reach the picture unit. -/
def touchesPpu (i : Instr) (s : State) : Bool :=
  (dataReadAddr i s).any reachesPpu || (dataWriteAddr i s).any reachesPpu ||
    match i with
    | .jmp (.ind q) => reachesPpu q || reachesPpu (mkWord (hiByte q) (loByte q + 1))
    | _ => false

/-- The picture unit without what time changes: the position, the pending budget and the vblank bit. -/
def Ppu.untimed (p : Ppu) : Ppu := { p with scanline := 0, cycle := 0, frame := 0, pending := 0, vblank := false }

/-! The texts of the disassembler -/

/-- One instruction of each mode at the address 0x8000, with its text: the examples of Table R95. -/
def disassemblyOfModes : List (Instr × String) :=
  [(.inx, "INX"), (.asl .acc, "ASL A"), (.lda (.imm 0x10), "LDA #$10"), (.lda (.mem (.zp 0x10)), "LDA $10"),
    (.lda (.mem (.zpx 0x10)), "LDA $10,X"), (.ldx (.mem (.zpy 0x10)), "LDX $10,Y"), (.lda (.mem (.abs 0x1234)), "LDA $1234"),
    (.lda (.mem (.absx 0x1234)), "LDA $1234,X"), (.lda (.mem (.absy 0x1234)), "LDA $1234,Y"),
    (.lda (.mem (.izx 0x10)), "LDA ($10,X)"), (.lda (.mem (.izy 0x10)), "LDA ($10),Y"), (.jmp (.ind 0x1234), "JMP ($1234)"),
    (.bne 0x03, "BNE $8005")]

/-- Loads, stores, arithmetic and logic, INC and DEC, with their texts (the forms of Table R95). -/
def disassemblyOfData : List (Instr × String) :=
  [(.ldy (.imm 0x89), "LDY #$89"), (.sta (.abs 0xABCD), "STA $ABCD"), (.stx (.zp 0xEF), "STX $EF"), (.sty (.zpx 0x67), "STY $67,X"),
    (.adc (.mem (.izy 0x05)), "ADC ($05),Y"), (.sbc (.mem (.absy 0xFEDC)), "SBC $FEDC,Y"), (.and (.imm 0xBA), "AND #$BA"),
    (.ora (.mem (.zp 0x98)), "ORA $98"), (.eor (.mem (.izx 0x76)), "EOR ($76,X)"), (.cmp (.imm 0x54), "CMP #$54"),
    (.cpx (.imm 0x32), "CPX #$32"), (.cpy (.mem (.abs 0x0210)), "CPY $0210"), (.bit (.abs 0x2002), "BIT $2002"),
    (.inc (.absx 0x4567), "INC $4567,X"), (.dec (.zp 0x00), "DEC $00")]

/-- Shifts, jumps and branches at the address 0x8000, with their texts. -/
def disassemblyOfControl : List (Instr × String) :=
  [(.asl (.mem (.abs 0x1F00)), "ASL $1F00"), (.lsr .acc, "LSR A"), (.rol (.mem (.zpx 0x01)), "ROL $01,X"), (.ror .acc, "ROR A"),
    (.jmp (.abs 0x8000), "JMP $8000"), (.jsr 0xFFFC, "JSR $FFFC"), (.bpl 0x7F, "BPL $8081"), (.bmi 0x80, "BMI $7F82"),
    (.bvc 0xFE, "BVC $8000"), (.bvs 0x00, "BVS $8002"), (.bcc 0x01, "BCC $8003"), (.bcs 0xFF, "BCS $8001"), (.beq 0x10, "BEQ $8012")]

/-- The other instructions without an operand, with their texts. -/
def disassemblyOfImplied : List (Instr × String) :=
  [(.tax, "TAX"), (.tay, "TAY"), (.txa, "TXA"), (.tya, "TYA"), (.tsx, "TSX"), (.txs, "TXS"), (.pha, "PHA"), (.php, "PHP"),
    (.pla, "PLA"), (.plp, "PLP"), (.iny, "INY"), (.dex, "DEX"), (.dey, "DEY"), (.rts, "RTS"), (.rti, "RTI"), (.brk, "BRK"),
    (.clc, "CLC"), (.sec, "SEC"), (.cli, "CLI"), (.sei, "SEI"), (.clv, "CLV"), (.cld, "CLD"), (.sed, "SED"), (.nop, "NOP")]

/-- Instructions with their texts: one of each mode, one of each mnemonic, and each of the sixteen digits. -/
def disassemblyExamples : List (Instr × String) :=
  disassemblyOfModes ++ disassemblyOfData ++ disassemblyOfControl ++ disassemblyOfImplied

/-! What an instruction form does, from the spec's own formulas -/

/-- The status byte with B = `b`: N<<7, V<<6, 1<<5, b<<4, D<<3, I<<2, Z<<1, C (10_state.md R20). -/
def statusByte (f : Flags) (b : Bool) : Byte :=
  BitVec.ofNat 8 (128 * f.n.toNat + 64 * f.v.toNat + 32 + 16 * b.toNat + 8 * f.d.toNat + 4 * f.i.toNat + 2 * f.z.toNat + f.c.toNat)

/-- Z and N set from a result (00_scope.md R10), the other flags as they were. -/
def withZN (f : Flags) (v : Byte) : Flags := { f with z := decide (v.toNat = 0), n := decide (128 ≤ v.toNat) }

/-- `s` with a fault of kind `k` recorded at the instruction at its PC, and nothing else changed (60_exceptions.md R169). -/
def faultedWith (k : ErrorKind) (s : State) : State := { s with fault := some { kind := k, pc := s.pc } }

/-- The instruction `i`, which reads an operand, has the effect `f` (from the value read and the state after the read): it
completes with an immediate, and with a memory operand whose address can be read, PC moved past it and its cycles passed; with a
memory operand that cannot be read it takes the access's fault and nothing else of it happens. -/
def Reads (i : Src → Instr) (f : Byte → State → State) (s : State) : Prop :=
  (∀ v, exec (i (.imm v)) s = .next (elapse 2 { f v s with pc := s.pc + 2 })) ∧
  (∀ l, accessFault (ea l s) s = none →
    ∃ v t, busRead (ea l s) s = .ok v t ∧
      exec (i (.mem l)) s =
        .next (elapse (readCycles (.mem l) s) { f v t with pc := s.pc + BitVec.ofNat 16 l.mode.length })) ∧
  (∀ l k, accessFault (ea l s) s = some k → exec (i (.mem l)) s = .next (faultedWith k s))

/-- The instruction `i` stores `v`: it completes with the bus write of `v` when the address can be written, and else takes the
access's fault and nothing else of it happens. -/
def Stores (i : Loc → Instr) (v : Byte) (s : State) : Prop :=
  (∀ l, accessFault (ea l s) s = none →
    ∃ t, busWrite (ea l s) v s = .ok () t ∧
      exec (i l) s = .next (elapse (Loc.storeCycles l) { t with pc := s.pc + BitVec.ofNat 16 l.mode.length })) ∧
  (∀ l k, accessFault (ea l s) s = some k → exec (i l) s = .next (faultedWith k s))

/-- The instruction `i` modifies a byte of memory: one read of `m` and one write of `r m` at the same address, and the flags
`g m` of the flags before it; when the address faults it takes the fault and nothing else of it happens. -/
def Modifies (i : RmwLoc → Instr) (r : Byte → Byte) (g : Flags → Byte → Flags) (s : State) : Prop :=
  (∀ l, accessFault (ea l.loc s) s = none →
    ∃ m t u, busRead (ea l.loc s) s = .ok m t ∧ busWrite (ea l.loc s) (r m) t = .ok () u ∧
      exec (i l) s =
        .next (elapse (RmwLoc.rmwCycles l)
          { u with flags := g s.flags m, pc := s.pc + BitVec.ofNat 16 l.loc.mode.length })) ∧
  (∀ l k, accessFault (ea l.loc s) s = some k → exec (i l) s = .next (faultedWith k s))

/-- The same instruction executed `n` times, with no fetch between. -/
def execTimes (n : Nat) (i : Instr) (s : State) : Result :=
  match n with
  | 0 => .next s
  | k + 1 =>
    match exec i s with
    | .next t => execTimes k i t
    | .fault r => .fault r
    | .refused r => .refused r

/-! Who writes a register or a flag -/

/-- The instructions that write A (10_state.md R14). -/
def writesA : Instr → Bool
  | .lda _ | .pla | .txa | .tya | .adc _ | .sbc _ | .and _ | .ora _ | .eor _ => true
  | .asl .acc | .lsr .acc | .rol .acc | .ror .acc => true
  | _ => false

/-- The instructions that write X (10_state.md R15). -/
def writesX : Instr → Bool
  | .ldx _ | .tax | .tsx | .inx | .dex => true
  | _ => false

/-- The instructions that write Y (10_state.md R15). -/
def writesY : Instr → Bool
  | .ldy _ | .tay | .iny | .dey => true
  | _ => false

/-- The instructions that write SP: TXS and every push and pull (10_state.md R16). -/
def writesSp : Instr → Bool
  | .txs | .pha | .php | .pla | .plp | .jsr _ | .rts | .brk | .rti => true
  | _ => false

/-- The instructions that write N and Z (10_state.md Table R19). -/
def writesNZ : Instr → Bool
  | .lda _ | .ldx _ | .ldy _ | .tax | .tay | .txa | .tya | .tsx | .pla | .and _ | .ora _ | .eor _ | .adc _ | .sbc _
  | .cmp _ | .cpx _ | .cpy _ | .inc _ | .dec _ | .inx | .iny | .dex | .dey | .asl _ | .lsr _ | .rol _ | .ror _
  | .bit _ | .plp | .rti => true
  | _ => false

/-- The instructions that write V (10_state.md Table R19). -/
def writesV : Instr → Bool
  | .adc _ | .sbc _ | .bit _ | .clv | .plp | .rti => true
  | _ => false

/-- The instructions that write B (10_state.md Table R19). -/
def writesB : Instr → Bool
  | .plp | .rti => true
  | _ => false

/-- The instructions that write D (10_state.md Table R19). -/
def writesD : Instr → Bool
  | .cld | .sed | .plp | .rti => true
  | _ => false

/-- The instructions that write I (10_state.md Table R19). -/
def writesI : Instr → Bool
  | .sei | .cli | .plp | .rti | .brk => true
  | _ => false

/-- The instructions that write C (10_state.md Table R19). -/
def writesC : Instr → Bool
  | .adc _ | .sbc _ | .cmp _ | .cpx _ | .cpy _ | .asl _ | .lsr _ | .rol _ | .ror _ | .clc | .sec | .plp | .rti => true
  | _ => false

/-! The picture unit in time -/

/-- The picture unit's position as one number of ticks (60_exceptions.md R179, R181): 341 to a scanline, 262 to a frame. -/
def position (p : Ppu) : Nat := (p.frame * 262 + p.scanline) * 341 + p.cycle

/-- The NMI line (60_exceptions.md R173). -/
def nmiLine (s : State) : Bool := s.ppu.vblank && s.ppu.ctrl.getLsbD 7

/-- The 16 opcode bytes of ADC and SBC (43_arith_logic.md R127, R128). -/
def decimalOpcodes : List Byte :=
  [0x61, 0x65, 0x69, 0x6D, 0x71, 0x75, 0x79, 0x7D, 0xE1, 0xE5, 0xE9, 0xED, 0xF1, 0xF5, 0xF9, 0xFD]

/-- An NMI is taken at the next step (60_exceptions.md R176). -/
def nmiTaken (s : State) : Prop := s.cfg.params.nmiModel = .vblankEdge ∧ s.nmiPending = true

/-- `t` is `s` but for the mask register and the control bits that nothing reads once written: all but 2 and 7 (10_state.md R35,
R36). -/
def SameButRenderBits (s t : State) : Prop :=
  t = { s with ppu := { s.ppu with mask := t.ppu.mask, ctrl := t.ppu.ctrl } } ∧
    t.ppu.ctrl.getLsbD 2 = s.ppu.ctrl.getLsbD 2 ∧ t.ppu.ctrl.getLsbD 7 = s.ppu.ctrl.getLsbD 7

end Sys2Proof.Machine
end

