-- ==== Sys2Proof/Certificates/Slice0/Obligations.lean ====
section
/-! DEFINITION. The statements about the model, in the order of OBLIGATIONS.json. Each docstring names the rules of spec/ it
comes from. -/
open Sys2Proof Sys2Proof.Machine

/-! Encoding -/

/-- O1. Decoding the encoding of a well-formed instruction gives that instruction and leaves the rest of the bytes (R88, R89, R92,
R93). -/
def Obligations.DecodeInvertsEncode : Prop :=
  ∀ (i : Instr) (rest : List Byte), i.wellFormed = true → decode (encode i ++ rest) = .ok (i, rest)

/-- O2. Whatever the decoder reads is well-formed, is the only instruction with those bytes, and is as long as its mode says, 1 to 3
bytes (R88, R89). -/
def Obligations.EncodeInvertsDecode : Prop :=
  ∀ (bytes rest : List Byte) (i : Instr), decode bytes = .ok (i, rest) →
    i.wellFormed = true ∧ encode i ++ rest = bytes ∧ (encode i).length = i.length ∧ 1 ≤ i.length ∧ i.length ≤ 3

/-- O3. Every opcode byte is a defined instruction or one of the 105 unsupported bytes, and 0xEA alone is NOP (R94). -/
def Obligations.EveryOpcodeIsDefinedOrUnsupported : Prop :=
  (∀ op b1 b2 : Byte,
    (decodeOp op b1 b2).wellFormed = true ∧ (decodeOp op b1 b2).opcode = some op ∧
    (decodeOp op b1 b2 = .unsupported op ↔ op ∈ undocumentedOpcodes) ∧
    ((∃ o, decodeOp op b1 b2 = .unsupported o) ↔ op ∈ undocumentedOpcodes) ∧
    (decodeOp op b1 b2 = .nop ↔ op = 0xEA)) ∧
  undocumentedOpcodes.length = 105 ∧ undocumentedOpcodes.Nodup

/-- O4. Words written out from the encoding tables, one or more of each family, decode to their instructions (R111 to R167). -/
def Obligations.SampleWordsDecode : Prop :=
  decodeTableWord 16 0x80A9 = some (.lda (.imm 0x80)) ∧
  decodeTableWord 24 0x10FFBD = some (.lda (.mem (.absx 0x10FF))) ∧
  decodeTableWord 16 0x2091 = some (.sta (.izy 0x20)) ∧
  decodeTableWord 16 0xFFB6 = some (.ldx (.mem (.zpy 0xFF))) ∧
  decodeTableWord 8 0x08 = some .php ∧
  decodeTableWord 16 0x2061 = some (.adc (.mem (.izx 0x20))) ∧
  decodeTableWord 24 0x020034 = some (.unsupported 0x34) ∧
  decodeTableWord 24 0x02007E = some (.ror (.mem (.absx 0x0200))) ∧
  decodeTableWord 8 0x0A = some (.asl .acc) ∧
  decodeTableWord 24 0x02FF6C = some (.jmp (.ind 0x02FF)) ∧
  decodeTableWord 16 0xFCF0 = some (.beq 0xFC) ∧
  decodeTableWord 8 0xF8 = some .sed

/-! The step -/

/-- O5. A step runs the decoded instruction (R97, R98, R101). When no fault is recorded, no NMI is taken, and the bytes at PC can be
fetched with no side effect and are the encoding of a well-formed handled instruction, the step is `exec` of it at that state, with
nothing added. Wherever the bytes come from, the step is `exec` of what they decode to at the state their fetches leave, unless the
opcode is a refused decimal one (O60). -/
def Obligations.StepRunsInstructionAtPc : Prop :=
  (∀ (i : Instr) (s : State), s.fault = none → ¬ nmiTaken s → i.wellFormed = true →
    (∀ op, i.opcode = some op → op ∉ s.cfg.params.omitted) →
    (∀ k, k < i.length → fetchByte (s.pc + BitVec.ofNat 16 k) s = (encode i)[k]?) →
    step s = exec i s) ∧
  (∀ (s t : State) (op : Byte), s.fault = none → ¬ nmiTaken s → busRead s.pc s = .ok op t →
    op ∉ undocumentedOpcodes → op ∉ s.cfg.params.omitted →
    ¬ (op ∈ decimalOpcodes ∧ s.cfg.params.decimalPolicy = .refuse ∧ s.flags.d = true) →
    (opcodeLength op = 1 → step s = exec (decodeOp op 0 0) t) ∧
    (∀ b1 u, opcodeLength op = 2 → busRead (s.pc + 1) t = .ok b1 u → step s = exec (decodeOp op b1 0) u) ∧
    (∀ b1 b2 u v, opcodeLength op = 3 → busRead (s.pc + 1) t = .ok b1 u → busRead (s.pc + 2) u = .ok b2 v →
      step s = exec (decodeOp op b1 b2) v))

/-- O6. An opcode byte with no registered handler, once fetched, ends the step with `UnsupportedOpcode` at its address; the opcode
fetch keeps its side effect, nothing else changes (R93). -/
def Obligations.UnregisteredOpcodeFaults : Prop :=
  (∀ (s t : State) (op : Byte), s.fault = none → ¬ nmiTaken s → busRead s.pc s = .ok op t →
    op ∈ undocumentedOpcodes ∨ op ∈ s.cfg.params.omitted →
    step s = .next { t with fault := some { kind := .unsupportedOpcode op s.pc, pc := s.pc } }) ∧
  (∀ (s : State) (op : Byte),
    exec (.unsupported op) s = .next { s with fault := some { kind := .unsupportedOpcode op s.pc, pc := s.pc } })

/-- O7. A step runs exactly when no fault is recorded; from a faulted state no step and no longer run goes anywhere (R24, R97, R170).
That a faulting step is itself a next state is the model's form of the rule (log 1). -/
def Obligations.StepRunsExactlyWithoutFault : Prop :=
  (∀ (s : State), s.fault = none → ∃ t, step s = .next t) ∧
  (∀ (s : State) (r : FaultRecord), s.fault = some r →
    step s = .fault (.quiescent r) ∧ ∀ n, Host.Core.run core (n + 1) s = .fault (Fault.quiescent r))

/-- O8. The NMI entry (R174): PC is pushed unadvanced, high byte first, then the status byte with B = 0; I is set, PC comes from
0xFFFA/0xFFFB, 7 cycles; I does not mask it; the stored B and D are unchanged. -/
def Obligations.NmiEntryPushesAndVectors : Prop :=
  ∀ (s : State), s.fault = none → nmiTaken s →
    step s = .next (elapse 7 { s with
      nmiPending := false
      ram := ((s.ram.write (0x100 + s.sp.toNat) (hiByte s.pc)).write (0x100 + (s.sp - 1).toNat) (loByte s.pc)).write
        (0x100 + (s.sp - 2).toNat) (statusByte s.flags false)
      sp := s.sp - 3
      flags := { s.flags with i := true }
      pc := mkWord (prgRead 0xFFFB s) (prgRead 0xFFFA s) })

/-- O9. An NMI becomes pending exactly on a rising edge of vblank and-ed with control bit 7, at a control write or at a tick, and only
with `VblankEdge`; no other register access changes it, and no instruction clears it (R173). -/
def Obligations.NmiPendingOnRisingEdge : Prop :=
  (∀ (s : State) (v : Byte),
    (ppuWrite .ctrl v s).nmiPending =
      (s.nmiPending || (decide (s.cfg.params.nmiModel = .vblankEdge) && !nmiLine s && nmiLine (ppuWrite .ctrl v s)))) ∧
  (∀ (s : State),
    (tick s).nmiPending =
      (s.nmiPending || (decide (s.cfg.params.nmiModel = .vblankEdge) && !nmiLine s && nmiLine (tick s)))) ∧
  (∀ (r : PpuReg) (v : Byte) (s : State), r ≠ .ctrl → (ppuWrite r v s).nmiPending = s.nmiPending) ∧
  (∀ (r : PpuReg) (s : State), (ppuRead r s).2.nmiPending = s.nmiPending) ∧
  (∀ (i : Instr) (s t : State), exec i s = .next t → s.nmiPending = true → t.nmiPending = true)

/-- O10. The mask register and the control bits other than 2 and 7 influence nothing: two states that differ only there step to
states that differ only there, or stop alike (R35, R36, R69). -/
def Obligations.RenderBitsInfluenceNothing : Prop :=
  ∀ (s t : State), SameButRenderBits s t →
    match step s, step t with
    | .next s', .next t' => SameButRenderBits s' t'
    | .fault r, .fault r' => r = r'
    | _, _ => False

/-- O11. A step that records a fault is precise: the record carries PC, and nothing changes but what completed picture-unit register
reads changed; no register, flag, PC, SP, memory, controller or CYC, and no time passes (R102, R169). -/
def Obligations.FaultingStepIsPrecise : Prop :=
  ∀ (s t : State) (r : FaultRecord), step s = .next t → t.fault = some r →
    r.pc = s.pc ∧
    t = { s with
      fault := some r
      spriteDraws := t.spriteDraws
      ppu := { s.ppu with
        latch := t.ppu.latch, vblank := t.ppu.vblank, w := t.ppu.w, readbuf := t.ppu.readbuf, v := t.ppu.v } }

/-- O12. The faults a step can record, each with the condition that raises it (R103, R168): no access of 0x0000-0x3FFF or
0x8000-0xFFFF faults, and only an ADC or SBC opcode raises `DecimalUnsupported`. -/
def Obligations.StepFaultKinds : Prop :=
  ∀ (s t : State) (r : FaultRecord), step s = .next t → t.fault = some r →
    match r.kind with
    | .addressOutOfBounds a =>
      (0x4000 ≤ a.toNat ∧ a.toNat < 0x6000) ∨ (0x6000 ≤ a.toNat ∧ a.toNat < 0x8000 ∧ s.cfg.hasPrgRam = false)
    | .ramDisabled a =>
      0x6000 ≤ a.toNat ∧ a.toNat < 0x8000 ∧ s.cfg.hasPrgRam = true ∧ s.map.prg.getLsbD 4 = true
    | .unsupportedOpcode op a => a = s.pc ∧ (op ∈ undocumentedOpcodes ∨ op ∈ s.cfg.params.omitted)
    | .decimalUnsupported a =>
      a = s.pc ∧ s.cfg.params.decimalPolicy = .refuse ∧ s.flags.d = true ∧
        ∃ op u, busRead s.pc s = .ok op u ∧ op ∈ decimalOpcodes
    | _ => False

/-- O13. A successful step adds 2 to 7 cycles to CYC, a step that records a fault adds none (R200). -/
def Obligations.StepCycleBounds : Prop :=
  ∀ (s t : State), step s = .next t →
    (t.fault = none → s.cyc + 2 ≤ t.cyc ∧ t.cyc ≤ s.cyc + 7) ∧ (t.fault ≠ none → t.cyc = s.cyc)

/-- O14. Every step keeps the invariant. -/
def Obligations.StepKeepsWellFormedState : Prop :=
  ∀ (s t : State), Inv s → step s = .next t → Inv t

/-- O15. The state after reset has the invariant. -/
def Obligations.ResetStateIsWellFormed : Prop := Inv State.reset

/-- O16. Every constructed state has the invariant, whatever the image, the parameters and the draws. -/
def Obligations.ConstructedStateIsWellFormed : Prop :=
  ∀ (img : Image) (params : Params) (d : PowerOn) (s : State), construct img params d = .ok s → Inv s

/-! Construction -/

/-- O17. The construction checks in their order: each failing one gives its error and no core, and an image that passes them gives the
state that is built and then booted (R189); O18 says what it holds. -/
def Obligations.ConstructionChecksInOrder : Prop :=
  ∀ (img : Image) (params : Params) (d : PowerOn),
    let prgBad := img.prgBanks.val < 1 ∨ img.prgRom.length ≠ img.prgBanks.val * 16384
    let chrBad := img.chrRom.length % 8192 ≠ 0
    let ramBad := img.prgRamUnits ≠ 0 ∧ img.prgRamUnits ≠ 1
    (prgBad → construct img params d = .error (.inconsistentPrgSize img.prgBanks.val img.prgRom.length)) ∧
    (¬ prgBad → chrBad → construct img params d = .error (.inconsistentChrSize img.chrRom.length)) ∧
    (¬ prgBad → ¬ chrBad → ramBad → construct img params d = .error (.inconsistentRamSize img.prgRamUnits)) ∧
    (¬ prgBad → ¬ chrBad → ¬ ramBad → img.mapperId ≠ 1 → construct img params d = .error (.unknownMapper img.mapperId)) ∧
    (¬ prgBad → ¬ chrBad → ¬ ramBad → img.mapperId = 1 →
      construct img params d = .ok (boot (built (configOf img params) d)))

/-- O18. What construction leaves (R42, R190, R192): registers, flags and memories hold their draws, PC the reset vector of the last
PRG bank, low byte first, the controller and the picture unit their construction values. -/
def Obligations.ConstructedStateValues : Prop :=
  ∀ (img : Image) (params : Params) (d : PowerOn) (s : State), construct img params d = .ok s →
    (s.a = d.a ∧ s.x = d.x ∧ s.y = d.y ∧ s.sp = d.sp ∧ s.flags = d.flags) ∧
    (∃ lo hi : Byte, img.prgRom[img.prgBanks.val * 16384 - 4]? = some lo ∧ img.prgRom[img.prgBanks.val * 16384 - 3]? = some hi ∧
      s.pc = mkWord hi lo) ∧
    (s.cyc = 0 ∧ s.nmiPending = false ∧ s.fault = none) ∧
    (∀ k v, k < 2048 → d.ram[k]? = some v → s.ram.read k = v) ∧
    (s.cfg.hasPrgRam = true ↔ img.prgRamUnits = 1) ∧
    (∀ k v, img.prgRamUnits = 1 → k < 8192 → d.prgRam[k]? = some v → s.prgRam.read k = v) ∧
    (∀ k v, img.chrRom = [] → k < 8192 → d.chrRam[k]? = some v → s.chrRam.read k = v) ∧
    (s.map.shift = 0x10 ∧ s.map.chr0 = 0 ∧ s.map.chr1 = 0 ∧ s.map.prg = 0) ∧
    s.map.control.toNat = 0x0C + (match img.mirrorInit with
      | .oneScreenLower => 0 | .oneScreenUpper => 1 | .vertical => 2 | .horizontal => 3) ∧
    (s.ppu.scanline = 261 ∧ s.ppu.cycle = 0 ∧ s.ppu.frame = 0 ∧ s.ppu.pending = 0 ∧ s.ppu.mirroring = img.mirrorInit) ∧
    (s.ppu.ctrl = 0 ∧ s.ppu.mask = 0 ∧ s.ppu.w = false) ∧
    (s.ppu.latch = d.ppuLatch ∧ s.ppu.vblank = d.ppuVblank ∧ s.ppu.v = d.ppuV ∧ s.ppu.t = d.ppuT ∧ s.ppu.x = d.ppuX ∧
      s.ppu.readbuf = d.ppuReadbuf ∧ s.ppu.oamaddr = d.ppuOamaddr) ∧
    (∀ k v, k < 256 → d.oam[k]? = some v → s.ppu.oam.read k = v) ∧
    (∀ k v, k < 2048 → d.ciram[k]? = some v → s.ppu.ciram.read k = v) ∧
    (∀ k v, k < 32 → d.pal[k]? = some v → s.ppu.pal.read k = v) ∧
    (s.cfg.params = params ∧ s.cfg.prgBanks = img.prgBanks ∧ s.cfg.chrRomLen = img.chrRom.length) ∧
    (∀ k v, img.prgRom[k]? = some v → s.cfg.prgRom.read k = v) ∧ (∀ k v, img.chrRom[k]? = some v → s.cfg.chrRom.read k = v)

/-! The bus -/

/-- O19. Internal RAM and its mirrors (R48): an access of 0x0000-0x1FFF is of `RAM[a % 0x0800]`, never faults and has no side effect,
and after a write every mirror of the address reads the written value. -/
def Obligations.RamIsMirroredFourTimes : Prop :=
  (∀ (a : Word) (v : Byte) (s : State), a.toNat < 0x2000 →
    busRead a s = .ok (s.ram.read (a.toNat % 0x0800)) s ∧
    busWrite a v s = .ok () { s with ram := s.ram.write (a.toNat % 0x0800) v }) ∧
  (∀ (a b : Word) (v : Byte) (s : State), Inv s → a.toNat < 0x2000 → b.toNat < 0x2000 →
    ∃ t, busWrite a v s = .ok () t ∧
      busRead b t = .ok (if b.toNat % 0x0800 = a.toNat % 0x0800 then v else s.ram.read (b.toNat % 0x0800)) t)

/-- O20. An access of 0x2000-0x3FFF is an access of the picture-unit register of index `a % 8` (R49, R62). -/
def Obligations.PpuRegistersAreMirroredEveryEight : Prop :=
  ∀ (a : Word) (v : Byte) (s : State), 0x2000 ≤ a.toNat → a.toNat < 0x4000 →
    ∃ r, (a.toNat % 8, r) ∈ [(0, PpuReg.ctrl), (1, .mask), (2, .status), (3, .oamAddr), (4, .oamData), (5, .scroll), (6, .addr),
        (7, .data)] ∧
      busRead a s = .ok (ppuRead r s).1 (ppuRead r s).2 ∧ busWrite a v s = .ok () (ppuWrite r v s)

/-- O21. The addresses that fault: 0x4000-0x401F (R50, R51) and the rest of 0x4000-0x5FFF, always; 0x6000-0x7FFF when PRG-RAM is absent
or disabled, else it is PRG-RAM (R53). A faulting access changes no state. -/
def Obligations.FaultingRangesAndPrgRam : Prop :=
  ∀ (a : Word) (v : Byte) (s : State),
    (0x4000 ≤ a.toNat → a.toNat < 0x6000 →
      busRead a s = .raise (.addressOutOfBounds a) s ∧ busWrite a v s = .raise (.addressOutOfBounds a) s) ∧
    (0x6000 ≤ a.toNat → a.toNat < 0x8000 → s.cfg.hasPrgRam = false →
      busRead a s = .raise (.addressOutOfBounds a) s ∧ busWrite a v s = .raise (.addressOutOfBounds a) s) ∧
    (0x6000 ≤ a.toNat → a.toNat < 0x8000 → s.cfg.hasPrgRam = true → s.map.prg.getLsbD 4 = true →
      busRead a s = .raise (.ramDisabled a) s ∧ busWrite a v s = .raise (.ramDisabled a) s) ∧
    (0x6000 ≤ a.toNat → a.toNat < 0x8000 → s.cfg.hasPrgRam = true → s.map.prg.getLsbD 4 = false →
      busRead a s = .ok (s.prgRam.read (a.toNat - 0x6000)) s ∧
      busWrite a v s = .ok () { s with prgRam := s.prgRam.write (a.toNat - 0x6000) v })

/-- O22. PRG banking (R59): the bank of a read of 0x8000-0xFFFF in each mode, always inside the image; no side effect, no fault. -/
def Obligations.PrgReadsThroughTheBank : Prop :=
  ∀ (a : Word) (s : State), 0x8000 ≤ a.toNat → 1 ≤ s.cfg.prgBanks.val →
    let nb := s.cfg.prgBanks.val
    let p := s.map.prg.toNat % 16
    let m := s.map.control.toNat / 4 % 4
    ∃ bank, bank < nb ∧
      (m = 0 ∨ m = 1 → bank = if a.toNat < 0xC000 then (p - p % 2) % nb else (p - p % 2 + 1) % nb) ∧
      (m = 2 → bank = if a.toNat < 0xC000 then 0 else p % nb) ∧
      (m = 3 → bank = if a.toNat < 0xC000 then p % nb else nb - 1) ∧
      busRead a s = .ok (s.cfg.prgRom.read (bank * 16384 + a.toNat % 0x4000)) s

/-- O23. A write to 0x8000-0xFFFF (R55, R56, R57): with bit 7 set it resets the shift register and sets prg_mode 3; a data write
shifts; the fifth data write commits to the register that address bits 14:13 select. No other state changes. -/
def Obligations.ControllerWrite : Prop :=
  ∀ (a : Word) (v : Byte) (s : State), 0x8000 ≤ a.toNat →
    let shifted : Byte := (s.map.shift >>> 1) ||| (if v.getLsbD 0 then 0x10 else 0x00)
    let val : BitVec 5 := shifted.setWidth 5
    (v.getLsbD 7 = true →
      busWrite a v s = .ok () { s with map := { s.map with shift := 0x10, control := s.map.control ||| 0x0C } }) ∧
    (v.getLsbD 7 = false → s.map.shift.getLsbD 0 = false →
      busWrite a v s = .ok () { s with map := { s.map with shift := shifted } }) ∧
    (v.getLsbD 7 = false → s.map.shift.getLsbD 0 = true →
      (a.toNat < 0xA000 →
        busWrite a v s = .ok () { s with
          map := { s.map with shift := 0x10, control := val }
          ppu := { s.ppu with mirroring := match val.toNat % 4 with
            | 0 => .oneScreenLower | 1 => .oneScreenUpper | 2 => .vertical | _ => .horizontal } }) ∧
      (0xA000 ≤ a.toNat → a.toNat < 0xC000 →
        busWrite a v s = .ok () { s with map := { s.map with shift := 0x10, chr0 := val } }) ∧
      (0xC000 ≤ a.toNat → a.toNat < 0xE000 →
        busWrite a v s = .ok () { s with map := { s.map with shift := 0x10, chr1 := val } }) ∧
      (0xE000 ≤ a.toNat → busWrite a v s = .ok () { s with map := { s.map with shift := 0x10, prg := val } }))

/-- O24. Five data writes from the marker commit the value whose bit j-1 is bit 0 of the j-th write, to the register the fifth address
selects, whatever the first four addresses are; a write with bit 7 set resets the accumulation and commits nothing (R58):
its one effect on the four registers is that of R55, to set control bits 3:2, and the mirroring stays as it was. -/
def Obligations.FiveWritesCommitLsbFirst : Prop :=
  (∀ (a1 a2 a3 a4 a5 : Word) (v1 v2 v3 v4 v5 : Byte) (s : State),
    (∀ a, a ∈ [a1, a2, a3, a4, a5] → 0x8000 ≤ a.toNat) → (∀ v, v ∈ [v1, v2, v3, v4, v5] → v.getLsbD 7 = false) →
    s.map.shift = 0x10 →
    ∃ t, ((busWrite a1 v1 s).andThen fun _ s1 => (busWrite a2 v2 s1).andThen fun _ s2 =>
        (busWrite a3 v3 s2).andThen fun _ s3 => (busWrite a4 v4 s3).andThen fun _ s4 => busWrite a5 v5 s4) = .ok () t ∧
      let val : BitVec 5 := BitVec.ofBool (v5.getLsbD 0) ++ BitVec.ofBool (v4.getLsbD 0) ++ BitVec.ofBool (v3.getLsbD 0) ++
        BitVec.ofBool (v2.getLsbD 0) ++ BitVec.ofBool (v1.getLsbD 0)
      (a5.toNat < 0xA000 → t.map = { s.map with control := val }) ∧
      (0xA000 ≤ a5.toNat → a5.toNat < 0xC000 → t.map = { s.map with chr0 := val }) ∧
      (0xC000 ≤ a5.toNat → a5.toNat < 0xE000 → t.map = { s.map with chr1 := val }) ∧
      (0xE000 ≤ a5.toNat → t.map = { s.map with prg := val })) ∧
  (∀ (a : Word) (v : Byte) (s : State), 0x8000 ≤ a.toNat → v.getLsbD 7 = true →
    ∃ t, busWrite a v s = .ok () t ∧ t.map.shift = 0x10 ∧ t.map.chr0 = s.map.chr0 ∧ t.map.chr1 = s.map.chr1 ∧
      t.map.prg = s.map.prg ∧ t.map.control = s.map.control ||| 0x0C ∧ t.ppu.mirroring = s.ppu.mirroring)

/-! The picture unit's registers and address space -/

/-- O25. CHR banking (R61): the index of a PPU address below 0x2000, inside CHR; a read is of that byte, a write sets it in a CHR-RAM
and does nothing to a CHR-ROM. -/
def Obligations.ChrAccessThroughTheBank : Prop :=
  ∀ (a : BitVec 14) (v : Byte) (s : State), a.toNat < 0x2000 →
    let len := s.cfg.chrRomLen
    let m4 := if len = 0 then 2 else len / 4096
    let c0 := s.map.chr0.toNat
    let b := if s.map.control.getLsbD 4 then (if a.toNat < 0x1000 then c0 else s.map.chr1.toNat) % m4
      else (c0 - c0 % 2 + a.toNat / 4096) % m4
    let index := b * 4096 + a.toNat % 4096
    ppuMemRead a s = (if len = 0 then s.chrRam.read index else s.cfg.chrRom.read index) ∧
    ppuMemWrite a v s = (if len = 0 then { s with chrRam := s.chrRam.write index v } else s) ∧
    (len % 8192 = 0 → index < if len = 0 then 8192 else len)

/-- O26. A status read (R66): bit 7 is vblank, bits 6:5 the oracle's next draw, bits 4:0 the latch; vblank and the write toggle are
cleared, the latch takes the value. -/
def Obligations.StatusReadClearsVblank : Prop :=
  ∀ (s : State), ∃ r : Byte,
    r.getLsbD 7 = s.ppu.vblank ∧ r.extractLsb' 5 2 = Config.statusSpriteBits s.spriteDraws ∧
    r.toNat % 32 = s.ppu.latch.toNat % 32 ∧
    ppuRead .status s =
      (r, { s with spriteDraws := s.spriteDraws + 1, ppu := { s.ppu with vblank := false, w := false, latch := r } })

/-- O27. The latch and the plain registers (R63, R65, R67, R68, R69, R70). -/
def Obligations.LatchAndPlainRegisters : Prop :=
  ∀ (s : State) (v : Byte),
    (∀ r, (ppuWrite r v s).ppu.latch = v) ∧
    (∀ r, r ∈ [PpuReg.status, .oamData, .data] → (ppuRead r s).2.ppu.latch = (ppuRead r s).1) ∧
    (∀ r, r ∈ [PpuReg.ctrl, .mask, .oamAddr, .scroll, .addr] → ppuRead r s = (s.ppu.latch, s)) ∧
    ppuWrite .status v s = { s with ppu := { s.ppu with latch := v } } ∧
    ppuWrite .mask v s = { s with ppu := { s.ppu with latch := v, mask := v } } ∧
    ppuWrite .oamAddr v s = { s with ppu := { s.ppu with latch := v, oamaddr := v } } ∧
    ppuWrite .ctrl v s = { s with
      nmiPending := s.nmiPending || (decide (s.cfg.params.nmiModel = .vblankEdge) && s.ppu.vblank && !s.ppu.ctrl.getLsbD 7 &&
        v.getLsbD 7)
      ppu := { s.ppu with
        latch := v, ctrl := v, t := (s.ppu.t &&& 0x73FF) ||| ((v &&& 0x03).setWidth 15 <<< 10) } }

/-- O28. The scroll pair and the address pair share the write toggle (R73, R74); two address writes from a clear toggle set the VRAM
address, high byte first, without bits 7:6 of the first. -/
def Obligations.ScrollAndAddressPairs : Prop :=
  ∀ (s : State) (v : Byte),
    (s.ppu.w = false →
      ppuWrite .scroll v s = { s with ppu := { s.ppu with
        latch := v, t := (s.ppu.t &&& 0x7FE0) ||| (v >>> 3).setWidth 15, x := v.setWidth 3, w := true } } ∧
      ppuWrite .addr v s = { s with ppu := { s.ppu with
        latch := v, t := (s.ppu.t &&& 0x00FF) ||| ((v &&& 0x3F).setWidth 15 <<< 8), w := true } } ∧
      ∀ lo : Byte, (ppuWrite .addr lo (ppuWrite .addr v s)).ppu.v.toNat = v.toNat % 64 * 256 + lo.toNat ∧
        (ppuWrite .addr lo (ppuWrite .addr v s)).ppu.w = false) ∧
    (s.ppu.w = true →
      ppuWrite .scroll v s = { s with ppu := { s.ppu with
        latch := v
        t := (s.ppu.t &&& 0x0C1F) ||| ((v &&& 0x07).setWidth 15 <<< 12) ||| ((v >>> 3).setWidth 15 <<< 5)
        w := false } } ∧
      ppuWrite .addr v s = { s with ppu := { s.ppu with
        latch := v, t := (s.ppu.t &&& 0x7F00) ||| v.setWidth 15, v := (s.ppu.t &&& 0x7F00) ||| v.setWidth 15, w := false } })

/-- O29. OAM data (R71, R72): a write stores at the OAM address and advances it, wrapping; a read returns the byte there and does not
advance it; a byte just written is read back when the address is set to it. -/
def Obligations.OamDataPort : Prop :=
  (∀ (s : State) (v : Byte),
    ppuWrite .oamData v s = { s with ppu := { s.ppu with
      latch := v, oam := s.ppu.oam.write s.ppu.oamaddr.toNat v, oamaddr := s.ppu.oamaddr + 1 } } ∧
    ppuRead .oamData s =
      (s.ppu.oam.read s.ppu.oamaddr.toNat, { s with ppu := { s.ppu with latch := s.ppu.oam.read s.ppu.oamaddr.toNat } })) ∧
  (∀ (s : State) (v k : Byte), Inv s →
    (ppuRead .oamData (ppuWrite .oamAddr k (ppuWrite .oamData v s))).1 =
      if k = s.ppu.oamaddr then v else s.ppu.oam.read k.toNat)

/-- O30. Picture data (R75, R76, R77): a write goes to the VRAM address, a read below 0x3F00 returns the buffer and refills it, a read
from 0x3F00 on returns the palette entry under the latch's bits 7:6; each then advances the address by 1 or 32 mod 0x8000. -/
def Obligations.PictureDataPort : Prop :=
  ∀ (s : State) (v : Byte),
    let a : BitVec 14 := s.ppu.v.setWidth 14
    let next : BitVec 15 := BitVec.ofNat 15 (s.ppu.v.toNat + if s.ppu.ctrl.getLsbD 2 then 32 else 1)
    (∃ t, t = ppuMemWrite a v { s with ppu := { s.ppu with latch := v } } ∧
      ppuWrite .data v s = { t with ppu := { t.ppu with v := next } }) ∧
    (a.toNat < 0x3F00 → ppuRead .data s =
      (s.ppu.readbuf, { s with ppu := { s.ppu with readbuf := ppuMemRead a s, v := next, latch := s.ppu.readbuf } })) ∧
    (0x3F00 ≤ a.toNat →
      let r := (s.ppu.latch &&& 0xC0) ||| ppuMemRead a s
      ppuRead .data s =
        (r, { s with ppu := { s.ppu with
          readbuf := ppuMemRead (BitVec.ofNat 14 (a.toNat - 0x1000)) s, v := next, latch := r } }))

/-- O31. Nametables and palette (R79, R80, R81): the CIRAM byte of an address in each mirroring mode, the mirror at 0x3000-0x3EFF, and
the palette entry with its four mirrors. -/
def Obligations.NametableAndPaletteMap : Prop :=
  ∀ (a : BitVec 14) (v : Byte) (s : State),
    let n := a.toNat / 0x400 % 4
    let page := match s.ppu.mirroring with
      | .horizontal => n / 2 | .vertical => n % 2 | .oneScreenLower => 0 | .oneScreenUpper => 1
    let i := page * 0x400 + a.toNat % 0x400
    let e := if a.toNat % 0x20 ∈ [0x10, 0x14, 0x18, 0x1C] then a.toNat % 0x20 - 0x10 else a.toNat % 0x20
    (0x2000 ≤ a.toNat → a.toNat < 0x3F00 →
      i < 2048 ∧ ppuMemRead a s = s.ppu.ciram.read i ∧
      ppuMemWrite a v s = { s with ppu := { s.ppu with ciram := s.ppu.ciram.write i v } }) ∧
    (0x3000 ≤ a.toNat → a.toNat < 0x3F00 → ppuMemRead a s = ppuMemRead (a - 0x1000) s) ∧
    (0x3F00 ≤ a.toNat →
      e < 32 ∧ (ppuMemRead a s).toNat = (s.ppu.pal.read e).toNat ∧
      ppuMemWrite a v s = { s with ppu := { s.ppu with pal := s.ppu.pal.write e (v.setWidth 6) } })

/-- O32. A bus write stores in the cell its address resolves to, and in no other cell of any memory; a palette cell keeps bits 5:0
(R47, R48, R53, R61, R71, R76, R79, R81). -/
def Obligations.BusWriteStoresInOneCell : Prop :=
  ∀ (a : Word) (v : Byte) (s t : State), Inv s → busWrite a v s = .ok () t →
    (∀ c, storedCell a s = some c → cellRead c t = match c with | .pal _ => v &&& 0x3F | _ => v) ∧
    (∀ c, storedCell a s ≠ some c → cellRead c t = cellRead c s)

/-! Time -/

/-- O33. The end of a successful step (R97, R179): CYC grows by the cycles; catching up `n` ticks advances the position by exactly `n`,
keeps it in range, uses up the budget, and changes nothing else but vblank and a pending NMI. -/
def Obligations.CatchUpAdvancesPosition : Prop :=
  (∀ (n : Nat) (s : State), s.ppu.scanline ≤ 261 → s.ppu.cycle ≤ 340 → s.ppu.pending = 0 →
    position (catchUp n s).ppu = position s.ppu + n ∧
    (catchUp n s).ppu.scanline ≤ 261 ∧ (catchUp n s).ppu.cycle ≤ 340 ∧
    catchUp n s = { s with
      nmiPending := (catchUp n s).nmiPending
      ppu := { s.ppu with
        scanline := (catchUp n s).ppu.scanline, cycle := (catchUp n s).ppu.cycle, frame := (catchUp n s).ppu.frame
        vblank := (catchUp n s).ppu.vblank } }) ∧
  (∀ (c : Nat) (s : State),
    elapse c s = catchUp (c * match s.cfg.params.tickRatio with | .one => 1 | .three => 3) { s with cyc := s.cyc + c })

/-- O34. Vertical-blank timing from (261, 0) (R182): where ticks 1, 341, 82523 and 89342 land and what vblank is; 7162 ticks reach
(20, 1) with vblank 0. -/
def Obligations.VblankTimingFromPreRender : Prop :=
  ∀ (s : State), s.ppu.scanline = 261 → s.ppu.cycle = 0 → s.ppu.pending = 0 →
    (∀ n, 1 ≤ n → n < 341 * 242 + 1 → (catchUp n s).ppu.vblank = false) ∧
    (∀ n, 341 * 242 + 1 ≤ n → n ≤ 341 * 262 → (catchUp n s).ppu.vblank = true) ∧
    ((catchUp 1 s).ppu.scanline = 261 ∧ (catchUp 1 s).ppu.cycle = 1) ∧
    ((catchUp 341 s).ppu.scanline = 0 ∧ (catchUp 341 s).ppu.cycle = 0) ∧
    ((catchUp (341 * 21 + 1) s).ppu.scanline = 20 ∧ (catchUp (341 * 21 + 1) s).ppu.cycle = 1) ∧
    ((catchUp (341 * 242 + 1) s).ppu.scanline = 241 ∧ (catchUp (341 * 242 + 1) s).ppu.cycle = 1) ∧
    ((catchUp (341 * 262) s).ppu.scanline = 261 ∧ (catchUp (341 * 262) s).ppu.cycle = 0 ∧
      (catchUp (341 * 262) s).ppu.frame = s.ppu.frame + 1)

/-- O35. The picture unit keeps pace with the CPU: whatever a step does, register accesses included, the position advances by exactly the
cycles CYC grows by, times the tick ratio (R64, R97, R185). -/
def Obligations.StepAdvancesPictureUnitByItsCycles : Prop :=
  ∀ (s t : State), Inv s → step s = .next t →
    s.cyc ≤ t.cyc ∧ position t.ppu = position s.ppu + (t.cyc - s.cyc) * ticksPerCycle s.cfg

/-! Operands and cycles -/

/-- O36. Effective addresses, the page-crossing cycle and the cycles of each mode (R91, R105, R106): zero-page addresses and pointers
wrap in page 0, indexed addresses mod 65536; only a read of an indexed mode costs a cycle more when it crosses a page. -/
def Obligations.EffectiveAddressesAndCycles : Prop :=
  ∀ (s : State) (n : Byte) (w : Word),
    let ptr (p : Nat) : Nat := (s.ram.read (p % 256)).toNat + 256 * (s.ram.read ((p + 1) % 256)).toNat
    let cost (base : Nat) (ref l : Nat) : Nat := if ref / 256 ≠ l / 256 then base + 1 else base
    ((ea (.zp n) s).toNat = n.toNat ∧ (ea (.zpx n) s).toNat = (n.toNat + s.x.toNat) % 256 ∧
      (ea (.zpy n) s).toNat = (n.toNat + s.y.toNat) % 256 ∧ ea (.abs w) s = w ∧
      (ea (.absx w) s).toNat = (w.toNat + s.x.toNat) % 65536 ∧ (ea (.absy w) s).toNat = (w.toNat + s.y.toNat) % 65536 ∧
      (ea (.izx n) s).toNat = ptr (n.toNat + s.x.toNat) ∧ (ea (.izy n) s).toNat = (ptr n.toNat + s.y.toNat) % 65536) ∧
    (readCycles (.imm n) s = 2 ∧ readCycles (.mem (.zp n)) s = 3 ∧ readCycles (.mem (.zpx n)) s = 4 ∧
      readCycles (.mem (.zpy n)) s = 4 ∧ readCycles (.mem (.abs w)) s = 4 ∧ readCycles (.mem (.izx n)) s = 6 ∧
      readCycles (.mem (.absx w)) s = cost 4 w.toNat (ea (.absx w) s).toNat ∧
      readCycles (.mem (.absy w)) s = cost 4 w.toNat (ea (.absy w) s).toNat ∧
      readCycles (.mem (.izy n)) s = cost 5 (ptr n.toNat) (ea (.izy n) s).toNat) ∧
    (Loc.storeCycles (.zp n) = 3 ∧ Loc.storeCycles (.zpx n) = 4 ∧ Loc.storeCycles (.zpy n) = 4 ∧ Loc.storeCycles (.abs w) = 4 ∧
      Loc.storeCycles (.absx w) = 5 ∧ Loc.storeCycles (.absy w) = 5 ∧ Loc.storeCycles (.izx n) = 6 ∧
      Loc.storeCycles (.izy n) = 6) ∧
    (RmwLoc.rmwCycles (.zp n) = 5 ∧ RmwLoc.rmwCycles (.zpx n) = 6 ∧ RmwLoc.rmwCycles (.abs w) = 6 ∧
      RmwLoc.rmwCycles (.absx w) = 7) ∧
    (busRead (BitVec.ofNat 16 n.toNat) s = .ok (s.ram.read n.toNat) s)

/-! Instructions -/

/-- O37. LDA, LDX, LDY load their register and set Z and N from the value (R111, R112, R113). -/
def Obligations.LoadsComplete : Prop :=
  ∀ (s : State),
    Reads .lda (fun v t => { t with a := v, flags := withZN t.flags v }) s ∧
    Reads .ldx (fun v t => { t with x := v, flags := withZN t.flags v }) s ∧
    Reads .ldy (fun v t => { t with y := v, flags := withZN t.flags v }) s

/-- O38. STA, STX, STY write their register to the effective address and no flag (R114, R115, R116). -/
def Obligations.StoresComplete : Prop :=
  ∀ (s : State), Stores .sta s.a s ∧ Stores .stx s.x s ∧ Stores .sty s.y s

/-- O39. The register transfers (R117 to R122): TXS alone writes no flag. -/
def Obligations.TransfersComplete : Prop :=
  ∀ (s : State),
    (encode .tax = [0xAA] ∧ exec .tax s = .next (elapse 2 { s with x := s.a, flags := withZN s.flags s.a, pc := s.pc + 1 })) ∧
    (encode .tay = [0xA8] ∧ exec .tay s = .next (elapse 2 { s with y := s.a, flags := withZN s.flags s.a, pc := s.pc + 1 })) ∧
    (encode .txa = [0x8A] ∧ exec .txa s = .next (elapse 2 { s with a := s.x, flags := withZN s.flags s.x, pc := s.pc + 1 })) ∧
    (encode .tya = [0x98] ∧ exec .tya s = .next (elapse 2 { s with a := s.y, flags := withZN s.flags s.y, pc := s.pc + 1 })) ∧
    (encode .tsx = [0xBA] ∧ exec .tsx s = .next (elapse 2 { s with x := s.sp, flags := withZN s.flags s.sp, pc := s.pc + 1 })) ∧
    (encode .txs = [0x9A] ∧ exec .txs s = .next (elapse 2 { s with sp := s.x, pc := s.pc + 1 }))

/-- O40. PHA, PHP, PLA, PLP (R20, R21, R123 to R126): the pushed status byte has bits 5 and 4 set; a pulled one sets all seven flags, B
from bit 4. -/
def Obligations.StackInstructionsComplete : Prop :=
  ∀ (s : State),
    let pulled : Byte := s.ram.read (0x100 + (s.sp + 1).toNat)
    (encode .pha = [0x48] ∧ exec .pha s = .next (elapse 3 { s with
      ram := s.ram.write (0x100 + s.sp.toNat) s.a, sp := s.sp - 1, pc := s.pc + 1 })) ∧
    (encode .php = [0x08] ∧ exec .php s = .next (elapse 3 { s with
      ram := s.ram.write (0x100 + s.sp.toNat) (statusByte s.flags true), sp := s.sp - 1, pc := s.pc + 1 })) ∧
    (encode .pla = [0x68] ∧ exec .pla s = .next (elapse 4 { s with
      a := pulled, flags := withZN s.flags pulled, sp := s.sp + 1, pc := s.pc + 1 })) ∧
    (encode .plp = [0x28] ∧ exec .plp s = .next (elapse 4 { s with
      flags :=
        { n := pulled.getLsbD 7, v := pulled.getLsbD 6, b := pulled.getLsbD 4, d := pulled.getLsbD 3, i := pulled.getLsbD 2
          z := pulled.getLsbD 1, c := pulled.getLsbD 0 }
      sp := s.sp + 1, pc := s.pc + 1 }))

/-- O41. The stack primitives (R104): push writes `0x0100 + SP` and decrements, pop increments and reads, both wrapping in page 0x01; a
16-bit push writes the high byte first, so that its low byte lies lower, and the matching pop returns the value and SP. -/
def Obligations.StackRoundTrip : Prop :=
  (∀ (s : State) (v : Byte),
    busWrite (BitVec.ofNat 16 (0x100 + s.sp.toNat)) v s = .ok () { push v s with sp := s.sp } ∧
    (push v s).sp = s.sp - 1 ∧ (pop s).2 = { s with sp := s.sp + 1 } ∧
    busRead (BitVec.ofNat 16 (0x100 + (s.sp + 1).toNat)) s = .ok (pop s).1 s ∧
    pop16 s = (mkWord (pop (pop s).2).1 (pop s).1, (pop (pop s).2).2)) ∧
  (∀ (s : State) (w : Word), Inv s →
    push16 w s = push (loByte w) (push (hiByte w) s) ∧
    (pop16 (push16 w s)).1 = w ∧ (pop16 (push16 w s)).2.sp = s.sp ∧
    (push16 w s).ram.read (0x100 + s.sp.toNat) = hiByte w ∧ (push16 w s).ram.read (0x100 + (s.sp - 1).toNat) = loByte w)

/-- O42. ADC and SBC (R127, R128): binary sum with carry, SBC of the complement; C from the sum above 0xFF, V by the signs, Z and N from
the result; with `Refuse` and D = 1 they fault before any operand access. -/
def Obligations.AddAndSubtractComplete : Prop :=
  ∀ (s : State),
    (¬ (s.cfg.params.decimalPolicy = .refuse ∧ s.flags.d = true) →
      Reads .adc (fun m t =>
        let sum := t.a.toNat + m.toNat + t.flags.c.toNat
        let r : Byte := BitVec.ofNat 8 sum
        { t with
          a := r
          flags := { withZN t.flags r with
            c := decide (0xFF < sum), v := decide (((t.a ^^^ r) &&& (m ^^^ r) &&& 0x80) ≠ 0) } }) s ∧
      Reads .sbc (fun m t =>
        let sum := t.a.toNat + (255 - m.toNat) + t.flags.c.toNat
        let r : Byte := BitVec.ofNat 8 sum
        { t with
          a := r
          flags := { withZN t.flags r with
            c := decide (0xFF < sum), v := decide (((t.a ^^^ m) &&& (t.a ^^^ r) &&& 0x80) ≠ 0) } }) s) ∧
    (s.cfg.params.decimalPolicy = .refuse → s.flags.d = true → ∀ o : Src,
      exec (.adc o) s = .next (faultedWith (.decimalUnsupported s.pc) s) ∧
      exec (.sbc o) s = .next (faultedWith (.decimalUnsupported s.pc) s))

/-- O43. What the carry and the overflow flag of ADC and SBC mean: C is the carry out of the unsigned sum, or no borrow; V says that the
signed result does not fit in a byte; A is the exact result mod 256 (R127, R128). -/
def Obligations.CarryAndOverflowAreArithmetic : Prop :=
  ∀ (s t : State) (m : Byte), ¬ (s.cfg.params.decimalPolicy = .refuse ∧ s.flags.d = true) →
    (exec (.adc (.imm m)) s = .next t →
      t.a.toNat = (s.a.toNat + m.toNat + s.flags.c.toNat) % 256 ∧
      (t.flags.c = true ↔ 256 ≤ s.a.toNat + m.toNat + s.flags.c.toNat) ∧
      (t.flags.v = true ↔ s.a.toInt + m.toInt + s.flags.c.toNat < -128 ∨ 127 < s.a.toInt + m.toInt + s.flags.c.toNat) ∧
      (t.flags.n = true ↔ t.a.toInt < 0) ∧ (t.flags.z = true ↔ t.a = 0)) ∧
    (exec (.sbc (.imm m)) s = .next t →
      (t.a.toNat : Int) = ((s.a.toNat : Int) - m.toNat - (1 - s.flags.c.toNat)) % 256 ∧
      (t.flags.c = true ↔ m.toNat + (1 - s.flags.c.toNat) ≤ s.a.toNat) ∧
      (t.flags.v = true ↔ s.a.toInt - m.toInt - (1 - (s.flags.c.toNat : Int)) < -128 ∨
        127 < s.a.toInt - m.toInt - (1 - (s.flags.c.toNat : Int))) ∧
      (t.flags.n = true ↔ t.a.toInt < 0) ∧ (t.flags.z = true ↔ t.a = 0))

/-- O44. AND, ORA, EOR (R129, R130, R131): Z and N from the result. -/
def Obligations.LogicCompletes : Prop :=
  ∀ (s : State),
    Reads .and (fun m t => { t with a := t.a &&& m, flags := withZN t.flags (t.a &&& m) }) s ∧
    Reads .ora (fun m t => { t with a := t.a ||| m, flags := withZN t.flags (t.a ||| m) }) s ∧
    Reads .eor (fun m t => { t with a := t.a ^^^ m, flags := withZN t.flags (t.a ^^^ m) }) s

/-- O45. CMP, CPX, CPY (R132, R133, R134): Z iff equal, C iff the register is at least the operand (unsigned), N bit 7 of the wrapped
difference; V and the register unchanged. BIT (R135): Z from A and the operand, N and V from its bits 7 and 6. -/
def Obligations.ComparesAndBitComplete : Prop :=
  ∀ (s : State),
    let compared (f : Flags) (r m : Byte) : Flags :=
      { f with
        z := decide (r.toNat = m.toNat), c := decide (m.toNat ≤ r.toNat)
        n := decide (128 ≤ (r.toNat + 256 - m.toNat) % 256) }
    Reads .cmp (fun m t => { t with flags := compared t.flags t.a m }) s ∧
    Reads .cpx (fun m t => { t with flags := compared t.flags t.x m }) s ∧
    Reads .cpy (fun m t => { t with flags := compared t.flags t.y m }) s ∧
    (∀ l, accessFault (ea l s) s = none →
      ∃ m t, busRead (ea l s) s = .ok m t ∧
        exec (.bit l) s = .next (elapse (readCycles (.mem l) s) { t with
          flags := { s.flags with z := decide (s.a &&& m = 0), n := m.getLsbD 7, v := m.getLsbD 6 }
          pc := s.pc + BitVec.ofNat 16 l.mode.length })) ∧
    (∀ l k, accessFault (ea l s) s = some k → exec (.bit l) s = .next (faultedWith k s))

/-- O46. INC and DEC of memory, ASL, LSR, ROL and ROR of memory and of A (R136, R137, R142 to R145): one read and one write of the same
address; C takes the bit shifted out, ROL and ROR shift the old C in, LSR clears N. -/
def Obligations.ReadModifyWriteCompletes : Prop :=
  ∀ (s : State),
    let c := s.flags.c.toNat
    let inc (m : Byte) : Byte := BitVec.ofNat 8 (m.toNat + 1)
    let dec (m : Byte) : Byte := BitVec.ofNat 8 (m.toNat + 255)
    let asl (m : Byte) : Byte := BitVec.ofNat 8 (2 * m.toNat)
    let lsr (m : Byte) : Byte := BitVec.ofNat 8 (m.toNat / 2)
    let rol (m : Byte) : Byte := BitVec.ofNat 8 (2 * m.toNat + c)
    let ror (m : Byte) : Byte := BitVec.ofNat 8 (m.toNat / 2 + 128 * c)
    let left (f : Flags) (m r : Byte) : Flags := { withZN f r with c := decide (128 ≤ m.toNat) }
    let right (f : Flags) (m r : Byte) : Flags := { withZN f r with c := decide (m.toNat % 2 = 1) }
    Modifies .inc inc (fun f m => withZN f (inc m)) s ∧
    Modifies .dec dec (fun f m => withZN f (dec m)) s ∧
    Modifies (fun l => .asl (.mem l)) asl (fun f m => left f m (asl m)) s ∧
    Modifies (fun l => .lsr (.mem l)) lsr (fun f m => { right f m (lsr m) with n := false }) s ∧
    Modifies (fun l => .rol (.mem l)) rol (fun f m => left f m (rol m)) s ∧
    Modifies (fun l => .ror (.mem l)) ror (fun f m => right f m (ror m)) s ∧
    exec (.asl .acc) s = .next (elapse 2 { s with a := asl s.a, flags := left s.flags s.a (asl s.a), pc := s.pc + 1 }) ∧
    exec (.lsr .acc) s =
      .next (elapse 2 { s with a := lsr s.a, flags := { right s.flags s.a (lsr s.a) with n := false }, pc := s.pc + 1 }) ∧
    exec (.rol .acc) s = .next (elapse 2 { s with a := rol s.a, flags := left s.flags s.a (rol s.a), pc := s.pc + 1 }) ∧
    exec (.ror .acc) s = .next (elapse 2 { s with a := ror s.a, flags := right s.flags s.a (ror s.a), pc := s.pc + 1 })

/-- O47. Nine successive ROLs of A return A and C to where they started, nine RORs too, and a ROR undoes a ROL (R144, R145). -/
def Obligations.NineRotationsReturn : Prop :=
  ∀ (s : State),
    (∃ t, execTimes 9 (.rol .acc) s = .next t ∧ t.a = s.a ∧ t.flags.c = s.flags.c ∧ t.cyc = s.cyc + 18) ∧
    (∃ t, execTimes 9 (.ror .acc) s = .next t ∧ t.a = s.a ∧ t.flags.c = s.flags.c ∧ t.cyc = s.cyc + 18) ∧
    (∃ t u, exec (.rol .acc) s = .next t ∧ exec (.ror .acc) t = .next u ∧ u.a = s.a ∧ u.flags.c = s.flags.c)

/-- O48. INX, INY, DEX, DEY (R138 to R141): wrapping by 1, Z and N from the result, C and V unchanged. -/
def Obligations.IndexIncrementsComplete : Prop :=
  ∀ (s : State),
    let up (v : Byte) : Byte := BitVec.ofNat 8 ((v.toNat + 1) % 256)
    let down (v : Byte) : Byte := BitVec.ofNat 8 ((v.toNat + 255) % 256)
    (encode .inx = [0xE8] ∧
      exec .inx s = .next (elapse 2 { s with x := up s.x, flags := withZN s.flags (up s.x), pc := s.pc + 1 })) ∧
    (encode .iny = [0xC8] ∧
      exec .iny s = .next (elapse 2 { s with y := up s.y, flags := withZN s.flags (up s.y), pc := s.pc + 1 })) ∧
    (encode .dex = [0xCA] ∧
      exec .dex s = .next (elapse 2 { s with x := down s.x, flags := withZN s.flags (down s.x), pc := s.pc + 1 })) ∧
    (encode .dey = [0x88] ∧
      exec .dey s = .next (elapse 2 { s with y := down s.y, flags := withZN s.flags (down s.y), pc := s.pc + 1 }))

/-- O49. JMP (R146): the indirect pointer's high byte is read in the pointer's own page. When the pointer's first byte can be read both
can; when it cannot, the fault is taken, in the model's form of log 1, and nothing else of the instruction happens. -/
def Obligations.JumpCompletes : Prop :=
  ∀ (s : State),
    (∀ a, encode (.jmp (.abs a)) = [0x4C, loByte a, hiByte a] ∧ exec (.jmp (.abs a)) s = .next (elapse 3 { s with pc := a })) ∧
    (∀ q : Word,
      let q' : Word := (q &&& 0xFF00) ||| ((q + 1) &&& 0x00FF)
      encode (.jmp (.ind q)) = [0x6C, loByte q, hiByte q] ∧
      (accessFault q s = none →
        ∃ lo t hi u, busRead q s = .ok lo t ∧ busRead q' t = .ok hi u ∧
          exec (.jmp (.ind q)) s = .next (elapse 5 { u with pc := mkWord hi lo })) ∧
      (∀ k, accessFault q s = some k → exec (.jmp (.ind q)) s = .next (faultedWith k s)))

/-- O50. JSR and RTS (R147, R148): JSR pushes the address of its last byte, high byte first; RTS adds 1 to the popped address. -/
def Obligations.CallAndReturnComplete : Prop :=
  ∀ (s : State),
    (∀ a, encode (.jsr a) = [0x20, loByte a, hiByte a] ∧
      exec (.jsr a) s = .next (elapse 6 { s with
        ram := (s.ram.write (0x100 + s.sp.toNat) (hiByte (s.pc + 2))).write (0x100 + (s.sp - 1).toNat) (loByte (s.pc + 2))
        sp := s.sp - 2, pc := a })) ∧
    (encode .rts = [0x60] ∧
      exec .rts s = .next (elapse 6 { s with
        sp := s.sp + 2
        pc := mkWord (s.ram.read (0x100 + (s.sp + 2).toNat)) (s.ram.read (0x100 + (s.sp + 1).toNat)) + 1 }))

/-- O51. An RTS after a JSR restores SP and resumes at `pc + 3`, with A, X, Y and the flags as before (R148). -/
def Obligations.CallThenReturnResumes : Prop :=
  ∀ (s t : State) (a : Word), Inv s → exec (.jsr a) s = .next t →
    t.pc = a ∧ ∃ u, exec .rts t = .next u ∧ u.pc = s.pc + 3 ∧ u.sp = s.sp ∧ u.a = s.a ∧ u.x = s.x ∧ u.y = s.y ∧
      u.flags = s.flags ∧ u.cyc = s.cyc + 12

/-- O52. The eight conditional branches (R149 to R157, R107): taken exactly on their flag, to `pc + 2` plus the signed offset mod 65536,
3 cycles and one more when the page test of the configured rule says so; not taken, `pc + 2` and 2 cycles. -/
def Obligations.BranchesComplete : Prop :=
  ∀ (s : State) (off : Byte), ∃ target : Word,
    (target.toNat : Int) = ((s.pc.toNat : Int) + 2 + off.toInt) % 65536 ∧
    let from2 : Word := s.pc + 2
    let bp : Nat := match s.cfg.params.branchPageRule with
      | .highByte => if from2 &&& 0xFF00 ≠ target &&& 0xFF00 then 1 else 0
      | .sourceMaskF0 => if from2 &&& 0x00F0 ≠ target &&& 0x00F0 then 1 else 0
    let branch (op : Byte) (i : Instr) (cond : Bool) : Prop :=
      encode i = [op, off] ∧
      (cond = true → exec i s = .next (elapse (2 + 1 + bp) { s with pc := target })) ∧
      (cond = false → exec i s = .next (elapse 2 { s with pc := from2 }))
    branch 0x10 (.bpl off) (!s.flags.n) ∧ branch 0x30 (.bmi off) s.flags.n ∧
    branch 0x50 (.bvc off) (!s.flags.v) ∧ branch 0x70 (.bvs off) s.flags.v ∧
    branch 0x90 (.bcc off) (!s.flags.c) ∧ branch 0xB0 (.bcs off) s.flags.c ∧
    branch 0xD0 (.bne off) (!s.flags.z) ∧ branch 0xF0 (.beq off) s.flags.z

/-- O53. BRK and RTI (R158, R159): BRK pushes `pc + 2` and the status byte with B = 1, sets I and goes to the vector at 0xFFFE; RTI pulls
the seven flags, then PC, with no +1. -/
def Obligations.BreakAndReturnComplete : Prop :=
  ∀ (s : State),
    (encode .brk = [0x00] ∧ exec .brk s = .next (elapse 7 { s with
      ram := ((s.ram.write (0x100 + s.sp.toNat) (hiByte (s.pc + 2))).write (0x100 + (s.sp - 1).toNat) (loByte (s.pc + 2))).write
        (0x100 + (s.sp - 2).toNat) (statusByte s.flags true)
      sp := s.sp - 3, flags := { s.flags with i := true }
      pc := mkWord (prgRead 0xFFFF s) (prgRead 0xFFFE s) })) ∧
    (let p : Byte := s.ram.read (0x100 + (s.sp + 1).toNat)
     encode .rti = [0x40] ∧ exec .rti s = .next (elapse 6 { s with
      flags := { n := p.getLsbD 7, v := p.getLsbD 6, b := p.getLsbD 4, d := p.getLsbD 3, i := p.getLsbD 2, z := p.getLsbD 1
                 c := p.getLsbD 0 }
      sp := s.sp + 3
      pc := mkWord (s.ram.read (0x100 + (s.sp + 3).toNat)) (s.ram.read (0x100 + (s.sp + 2).toNat)) }))

/-- O54. An RTI after a BRK resumes two bytes after it with every flag restored but B, now 1; an RTI after an NMI entry resumes at the
interrupted instruction with every flag restored but B, now 0 (R159, R174, R177). -/
def Obligations.InterruptThenReturnResumes : Prop :=
  (∀ (s t : State), Inv s → exec .brk s = .next t →
    ∃ u, exec .rti t = .next u ∧ u.pc = s.pc + 2 ∧ u.sp = s.sp ∧ u.flags = { s.flags with b := true } ∧
      u.a = s.a ∧ u.x = s.x ∧ u.y = s.y) ∧
  (∀ (s t : State), Inv s → s.fault = none → nmiTaken s → step s = .next t →
    ∃ u, exec .rti t = .next u ∧ u.pc = s.pc ∧ u.sp = s.sp ∧ u.flags = { s.flags with b := false } ∧
      u.a = s.a ∧ u.x = s.x ∧ u.y = s.y)

/-- O55. The flag instructions and NOP (R160 to R167): one flag each, 2 cycles, nothing else. -/
def Obligations.FlagInstructionsComplete : Prop :=
  ∀ (s : State),
    let sets (op : Byte) (i : Instr) (f : Flags) : Prop :=
      encode i = [op] ∧ exec i s = .next (elapse 2 { s with flags := f, pc := s.pc + 1 })
    sets 0x18 .clc { s.flags with c := false } ∧ sets 0x38 .sec { s.flags with c := true } ∧
    sets 0x58 .cli { s.flags with i := false } ∧ sets 0x78 .sei { s.flags with i := true } ∧
    sets 0xB8 .clv { s.flags with v := false } ∧ sets 0xD8 .cld { s.flags with d := false } ∧
    sets 0xF8 .sed { s.flags with d := true } ∧ sets 0xEA .nop s.flags

/-! Frames -/

/-- O56. The frame of registers and flags, over all instructions: a register changes only by the instructions of R14 to R16, a flag only
by those of Table R19. -/
def Obligations.RegisterAndFlagFrame : Prop :=
  ∀ (i : Instr) (s t : State), exec i s = .next t →
    (writesA i = false → t.a = s.a) ∧ (writesX i = false → t.x = s.x) ∧ (writesY i = false → t.y = s.y) ∧
    (writesSp i = false → t.sp = s.sp) ∧
    (writesNZ i = false → t.flags.n = s.flags.n ∧ t.flags.z = s.flags.z) ∧
    (writesV i = false → t.flags.v = s.flags.v) ∧ (writesB i = false → t.flags.b = s.flags.b) ∧
    (writesD i = false → t.flags.d = s.flags.d) ∧ (writesI i = false → t.flags.i = s.flags.i) ∧
    (writesC i = false → t.flags.c = s.flags.c)

/-- O57. The frame of memory, over all instructions: a cell of RAM, PRG-RAM, CHR-RAM, OAM, CIRAM or the palette keeps its value unless
the instruction pushes to it or its one data write stores in it; the stored cell is computed in the state the write sees (R101). -/
def Obligations.MemoryFrame : Prop :=
  ∀ (i : Instr) (s t : State) (c : Cell), Inv s → exec i s = .next t →
    c ∉ pushedCells i s → dataCell i s ≠ some c → cellRead c t = cellRead c s

/-- O58. The frame of the devices, over all instructions: the configuration, PRG-ROM and CHR-ROM with it, never changes; the controller and
the mirroring change only by a data write to 0x8000-0xFFFF; the picture unit's registers, and its memories, only by an access to
0x2000-0x3FFF; FAULT is unchanged or is set with this PC (R26, R52, R57, R64). -/
def Obligations.DeviceFrame : Prop :=
  ∀ (i : Instr) (s t : State), exec i s = .next t →
    t.cfg = s.cfg ∧
    ((dataWriteAddr i s).any reachesMapper = false → t.map = s.map ∧ t.ppu.mirroring = s.ppu.mirroring) ∧
    (touchesPpu i s = false →
      t.ppu.untimed = { s.ppu.untimed with mirroring := t.ppu.mirroring } ∧ t.spriteDraws = s.spriteDraws) ∧
    (s.cfg.params.nmiModel = .none → t.nmiPending = s.nmiPending) ∧
    (t.fault = s.fault ∨ ∃ k, t.fault = some { kind := k, pc := s.pc })

/-! The host's operations -/

/-- O59. The driver's inspections (R108). `read_address` is the bus read. `opcode_length` reads one byte and answers the length of Table
R89. `disassemble` reads the opcode and the operand bytes its length needs, one after another, and answers the text of the instruction
they decode to; the texts are those of Table R95. A byte that cannot be read gives its bus fault, and an error leaves FAULT alone. The
snapshot is a copy of the registers and the seven stored flags. The model's choices in it: that an opcode omitted from HANDLED is
unsupported to both operations (log 11), and that the error of `disassemble` at an unsupported opcode is `UnknownMnemonic`, never
`UnknownMode` (log 17). -/
def Obligations.HostInspections : Prop :=
  (∀ (a : Word) (s : State), readAddress a s = busRead a s) ∧
  (∀ (a : Word) (s t : State) (k : ErrorKind), busRead a s = .raise k t →
    opcodeLengthAt a s = .raise k t ∧ disassemble a s = .raise k t) ∧
  (∀ (a : Word) (s t : State) (op : Byte), busRead a s = .ok op t →
    (op ∈ undocumentedOpcodes ∨ op ∈ s.cfg.params.omitted →
      opcodeLengthAt a s = .raise (.invalidAddressingMode op) t ∧ disassemble a s = .raise (.unknownMnemonic op) t) ∧
    (op ∉ undocumentedOpcodes → op ∉ s.cfg.params.omitted →
      (∃ n, opcodeLengthAt a s = .ok n t ∧ ∀ b1 b2, (decodeOp op b1 b2).length = n) ∧
      (opcodeLength op = 1 → disassemble a s = .ok (disassembleInstr a (decodeOp op 0 0)) t) ∧
      (∀ k u, 2 ≤ opcodeLength op → busRead (a + 1) t = .raise k u → disassemble a s = .raise k u) ∧
      (∀ b1 u, opcodeLength op = 2 → busRead (a + 1) t = .ok b1 u →
        disassemble a s = .ok (disassembleInstr a (decodeOp op b1 0)) u) ∧
      (∀ b1 u k v, opcodeLength op = 3 → busRead (a + 1) t = .ok b1 u → busRead (a + 2) u = .raise k v →
        disassemble a s = .raise k v) ∧
      (∀ b1 b2 u v, opcodeLength op = 3 → busRead (a + 1) t = .ok b1 u → busRead (a + 2) u = .ok b2 v →
        disassemble a s = .ok (disassembleInstr a (decodeOp op b1 b2)) v))) ∧
  (∀ (a : Word) (s t : State) (k : ErrorKind),
    (readAddress a s = .raise k t ∨ opcodeLengthAt a s = .raise k t ∨ disassemble a s = .raise k t) → t.fault = s.fault) ∧
  (∀ p, p ∈ disassemblyExamples → disassembleInstr 0x8000 p.1 = p.2) ∧
  (∀ s : State,
    (snapshotRegisters s).pc = s.pc ∧ (snapshotRegisters s).sp = s.sp ∧ (snapshotRegisters s).x = s.x ∧
    (snapshotRegisters s).y = s.y ∧ (snapshotRegisters s).a = s.a ∧ (snapshotRegisters s).flags = s.flags)

/-! Faults of the fetch -/

/-- O60. The order of the checks before an instruction runs (R101, R176): the opcode fetch, then the unsupported opcode (O6), then the
refused decimal opcode, then the operand bytes one after another; the first that fails is recorded, in the form of log 1, and what
was fetched before it keeps its side effects. -/
def Obligations.FetchFaultsInOrder : Prop :=
  (∀ (s u : State) (k : ErrorKind), s.fault = none → ¬ nmiTaken s → busRead s.pc s = .raise k u →
    step s = .next (faultedWith k s)) ∧
  (∀ (s t : State) (op : Byte), s.fault = none → ¬ nmiTaken s → busRead s.pc s = .ok op t → op ∉ s.cfg.params.omitted →
    op ∈ decimalOpcodes → s.cfg.params.decimalPolicy = .refuse → s.flags.d = true →
    step s = .next (faultedWith (.decimalUnsupported s.pc) t)) ∧
  (∀ (s t : State) (op : Byte), s.fault = none → ¬ nmiTaken s → busRead s.pc s = .ok op t →
    op ∉ undocumentedOpcodes → op ∉ s.cfg.params.omitted →
    ¬ (op ∈ decimalOpcodes ∧ s.cfg.params.decimalPolicy = .refuse ∧ s.flags.d = true) →
    (∀ k u, 2 ≤ opcodeLength op → busRead (s.pc + 1) t = .raise k u → step s = .next (faultedWith k t)) ∧
    (∀ b1 k u v, opcodeLength op = 3 → busRead (s.pc + 1) t = .ok b1 u → busRead (s.pc + 2) u = .raise k v →
      step s = .next (faultedWith k u)))
end

