-- ==== Sys2Proof/Laws/Decode.lean ====
section
/-! SUPPORT. Bytes of words, and what an opcode byte alone decides. -/
namespace Sys2Proof

@[simp] theorem mkWord_hi_lo (w : Word) : mkWord (hiByte w) (loByte w) = w := by
  apply BitVec.eq_of_getLsbD_eq
  intro i hi
  simp only [mkWord, hiByte, loByte, BitVec.getLsbD_append, BitVec.getLsbD_extractLsb']
  by_cases h : i < 8
  · simp [h]
  · have h8 : i - 8 < 8 := by omega
    have h' : 8 + (i - 8) = i := by omega
    simp [h, h8, h']

theorem mkWord_toNat (h l : Byte) : (mkWord h l).toNat = h.toNat * 256 + l.toNat := by
  simp only [mkWord, BitVec.toNat_append]
  rw [← Nat.shiftLeft_add_eq_or_of_lt l.isLt, Nat.shiftLeft_eq]

theorem hiByte_toNat (w : Word) : (hiByte w).toNat = w.toNat / 256 := by
  have hw := w.isLt
  simp only [hiByte, BitVec.extractLsb'_toNat, Nat.shiftRight_eq_div_pow]
  omega

theorem loByte_toNat (w : Word) : (loByte w).toNat = w.toNat % 256 := by
  simp [loByte, BitVec.extractLsb'_toNat]

@[simp] theorem hiByte_mkWord (h l : Byte) : hiByte (mkWord h l) = h := by
  have hl := l.isLt
  apply BitVec.eq_of_toNat_eq
  rw [hiByte_toNat, mkWord_toNat]
  omega

@[simp] theorem loByte_mkWord (h l : Byte) : loByte (mkWord h l) = l := by
  have hl := l.isLt
  apply BitVec.eq_of_toNat_eq
  rw [loByte_toNat, mkWord_toNat]
  omega

/-- The decoder gives back the opcode byte it was given, whatever the operand bytes. -/
theorem opcode_decodeOp (op b1 b2 : Byte) : (decodeOp op b1 b2).opcode = some op := by
  have h : ∀ n : Fin 256, (decodeOp (BitVec.ofFin n) b1 b2).opcode = some (BitVec.ofFin n) := by
    intro n
    fin_cases n <;> rfl
  exact h op.toFin

/-- The length does not depend on the operand bytes (30_encoding.md R89). -/
theorem length_decodeOp (op b1 b2 : Byte) : (decodeOp op b1 b2).length = opcodeLength op := by
  have h : ∀ n : Fin 256, (decodeOp (BitVec.ofFin n) b1 b2).length = opcodeLength (BitVec.ofFin n) := by
    intro n
    fin_cases n <;> rfl
  exact h op.toFin

/-- Every instruction is 1, 2 or 3 bytes long. -/
theorem Instr.length_cases (i : Instr) : i.length = 1 ∨ i.length = 2 ∨ i.length = 3 := by
  unfold Instr.length
  cases i.mode with
  | none => exact .inl rfl
  | some m => cases m <;> simp [Mode.length]

/-- Every opcode byte has a length of 1, 2 or 3. -/
theorem opcodeLength_cases (op : Byte) : opcodeLength op = 1 ∨ opcodeLength op = 2 ∨ opcodeLength op = 3 :=
  Instr.length_cases _

/-- `decode` of a byte list that starts with a one-byte instruction. -/
theorem decode_one {op : Byte} {rest : List Byte} (h : opcodeLength op = 1) :
    decode (op :: rest) = .ok (decodeOp op 0 0, rest) := by
  simp only [decode, h]

/-- `decode` of a byte list that starts with a two-byte instruction. -/
theorem decode_two {op b1 : Byte} {rest : List Byte} (h : opcodeLength op = 2) :
    decode (op :: b1 :: rest) = .ok (decodeOp op b1 0, rest) := by
  simp only [decode, h]

/-- `decode` of a byte list that starts with a three-byte instruction. -/
theorem decode_three {op b1 b2 : Byte} {rest : List Byte} (h : opcodeLength op = 3) :
    decode (op :: b1 :: b2 :: rest) = .ok (decodeOp op b1 b2, rest) := by
  simp only [decode, h]

end Sys2Proof
end

