-- ==== Sys2Proof/Laws/Memory.lean ====
section
/-! SUPPORT. The laws of memories: read after write, the canonical form is kept, and equal contents are equal data. -/
namespace Sys2Proof

variable {w : Nat}

@[simp] theorem Memory.read_nil (i : Nat) : Memory.read ([] : Memory w) i = 0 := rfl

theorem Memory.read_of_lt_wfFrom {m : Memory w} {lo i : Nat} (h : m.wfFrom lo = true) (hi : i < lo) : m.read i = 0#w := by
  induction m generalizing lo with
  | nil => rfl
  | cons c rest ih =>
    obtain ⟨k, v⟩ := c
    simp only [Memory.wfFrom, Bool.and_eq_true, decide_eq_true_eq] at h
    have hk : k ≠ i := by omega
    simp only [Memory.read, hk, if_false]
    exact ih h.2 (by omega)

theorem Memory.wfFrom_mono {m : Memory w} {lo lo' : Nat} (h : m.wfFrom lo' = true) (hl : lo ≤ lo') : m.wfFrom lo = true := by
  cases m with
  | nil => rfl
  | cons c rest =>
    obtain ⟨k, v⟩ := c
    simp only [Memory.wfFrom, Bool.and_eq_true, decide_eq_true_eq] at h ⊢
    exact ⟨⟨by omega, h.1.2⟩, h.2⟩

theorem Memory.wf_of_wfFrom {m : Memory w} {lo : Nat} (h : m.wfFrom lo = true) : m.wf = true :=
  Memory.wfFrom_mono h (Nat.zero_le lo)

/-- A write reads back at its own index and leaves every other index alone. -/
theorem Memory.read_write_wfFrom {m : Memory w} {lo : Nat} (h : m.wfFrom lo = true) (i j : Nat) (v : BitVec w) :
    (m.write i v).read j = if j = i then v else m.read j := by
  induction m generalizing lo with
  | nil =>
    by_cases hv : v = 0#w
    · simp [Memory.write, hv]
    · by_cases hj : j = i
      · simp [Memory.write, Memory.read, hv, hj]
      · have : i ≠ j := fun e => hj e.symm
        simp [Memory.write, Memory.read, hv, hj, this]
  | cons c rest ih =>
    obtain ⟨k, u⟩ := c
    simp only [Memory.wfFrom, Bool.and_eq_true, decide_eq_true_eq] at h
    obtain ⟨_, hr⟩ := h
    unfold Memory.write
    split
    · rename_i hik
      have hz : Memory.read ((k, u) :: rest) i = 0#w := by
        have hki : k ≠ i := by omega
        simp only [Memory.read, hki, if_false]
        exact Memory.read_of_lt_wfFrom hr (by omega)
      by_cases hv : v = 0#w
      · simp only [hv, if_true]
        by_cases hj : j = i
        · rw [hj, hz]; simp
        · simp [hj]
      · simp only [hv, if_false]
        by_cases hj : j = i
        · simp [Memory.read, hj]
        · have : i ≠ j := fun e => hj e.symm
          simp [Memory.read, hj, this]
    · split
      · rename_i hik
        subst hik
        have hz : Memory.read rest i = 0#w := Memory.read_of_lt_wfFrom hr (by omega)
        by_cases hv : v = 0#w
        · simp only [hv, if_true]
          by_cases hj : j = i
          · rw [hj, hz]; simp
          · have : i ≠ j := fun e => hj e.symm
            simp [Memory.read, hj, this]
        · simp only [hv, if_false]
          by_cases hj : j = i
          · simp [Memory.read, hj]
          · have : i ≠ j := fun e => hj e.symm
            simp [Memory.read, hj, this]
      · rename_i hik
        by_cases hk : k = j
        · subst hk
          have : ¬ k = i := fun e => hik e.symm
          simp [Memory.read, this]
        · simp only [Memory.read, hk, if_false]
          exact ih hr

theorem Memory.read_write {m : Memory w} (h : m.wf = true) (i j : Nat) (v : BitVec w) :
    (m.write i v).read j = if j = i then v else m.read j := Memory.read_write_wfFrom h i j v

theorem Memory.read_write_same {m : Memory w} (h : m.wf = true) (i : Nat) (v : BitVec w) : (m.write i v).read i = v := by
  rw [Memory.read_write h]; simp

theorem Memory.read_write_other {m : Memory w} (h : m.wf = true) {i j : Nat} (v : BitVec w) (hj : j ≠ i) :
    (m.write i v).read j = m.read j := by
  rw [Memory.read_write h]; simp [hj]

theorem Memory.wfFrom_write {m : Memory w} {lo i : Nat} {v : BitVec w} (h : m.wfFrom lo = true) (hi : lo ≤ i) :
    (m.write i v).wfFrom lo = true := by
  induction m generalizing lo with
  | nil =>
    by_cases hv : v = 0#w <;> simp [Memory.write, Memory.wfFrom, hv, hi]
  | cons c rest ih =>
    obtain ⟨k, u⟩ := c
    have h0 := h
    simp only [Memory.wfFrom, Bool.and_eq_true, decide_eq_true_eq] at h
    obtain ⟨⟨hlk, hu⟩, hr⟩ := h
    unfold Memory.write
    split
    · by_cases hv : v = 0#w
      · simpa [hv] using h0
      · simp only [hv, if_false, Memory.wfFrom, Bool.and_eq_true, decide_eq_true_eq]
        exact ⟨⟨hi, by simpa using hv⟩, ⟨by omega, hu⟩, hr⟩
    · split
      · rename_i hik
        subst hik
        by_cases hv : v = 0#w
        · simpa [hv] using Memory.wfFrom_mono hr (by omega)
        · simp only [hv, if_false, Memory.wfFrom, Bool.and_eq_true, decide_eq_true_eq]
          exact ⟨⟨hi, by simpa using hv⟩, hr⟩
      · simp only [Memory.wfFrom, Bool.and_eq_true, decide_eq_true_eq]
        exact ⟨⟨hlk, hu⟩, ih hr (by omega)⟩

/-- Every write keeps the canonical form. -/
theorem Memory.wf_write {m : Memory w} (h : m.wf = true) (i : Nat) (v : BitVec w) : (m.write i v).wf = true :=
  Memory.wfFrom_write h (Nat.zero_le i)

/-- A write inside a memory's size stays inside it. -/
theorem Memory.within_write {m : Memory w} {size i : Nat} (h : m.within size = true) (hi : i < size) (v : BitVec w) :
    (m.write i v).within size = true := by
  induction m with
  | nil => by_cases hv : v = 0#w <;> simp [Memory.write, Memory.within, hv, hi]
  | cons c rest ih =>
    obtain ⟨k, u⟩ := c
    simp only [Memory.within, List.all_cons, Bool.and_eq_true, decide_eq_true_eq] at h
    obtain ⟨hk, hr⟩ := h
    unfold Memory.write
    split <;> [skip; split] <;> (try split) <;>
      simp only [Memory.within, List.all_cons, Bool.and_eq_true, decide_eq_true_eq]
    · exact ⟨hk, hr⟩
    · exact ⟨hi, hk, hr⟩
    · exact hr
    · exact ⟨hi, hr⟩
    · exact ⟨hk, ih hr⟩

/-- Two memories in canonical form that read the same everywhere are the same data. -/
theorem Memory.ext_wfFrom {m m' : Memory w} {lo lo' : Nat} (h : m.wfFrom lo = true) (h' : m'.wfFrom lo' = true)
    (hr : ∀ i, m.read i = m'.read i) : m = m' := by
  induction m generalizing m' lo lo' with
  | nil =>
    cases m' with
    | nil => rfl
    | cons c rest =>
      obtain ⟨k, v⟩ := c
      have := hr k
      simp only [Memory.wfFrom, Bool.and_eq_true] at h'
      simp only [Memory.read, if_true] at this
      simp [← this] at h'
  | cons c rest ih =>
    obtain ⟨k, v⟩ := c
    have h0 := h
    simp only [Memory.wfFrom, Bool.and_eq_true, decide_eq_true_eq] at h
    cases m' with
    | nil =>
      have := hr k
      simp only [Memory.read, if_true] at this
      simp [this] at h
    | cons c' rest' =>
      obtain ⟨k', v'⟩ := c'
      have h0' := h'
      simp only [Memory.wfFrom, Bool.and_eq_true, decide_eq_true_eq] at h'
      have hkk : k = k' := by
        rcases Nat.lt_trichotomy k k' with hlt | heq | hgt
        · exfalso
          have h1 := hr k
          have h2 : Memory.read ((k', v') :: rest') k = 0#w := by
            have hne : k' ≠ k := by omega
            simp only [Memory.read, hne, if_false]
            exact Memory.read_of_lt_wfFrom h'.2 (by omega)
          rw [h2] at h1
          simp only [Memory.read, if_true] at h1
          simp [h1] at h
        · exact heq
        · exfalso
          have h1 := hr k'
          have h2 : Memory.read ((k, v) :: rest) k' = 0#w := by
            have hne : k ≠ k' := by omega
            simp only [Memory.read, hne, if_false]
            exact Memory.read_of_lt_wfFrom h.2 (by omega)
          rw [h2] at h1
          simp only [Memory.read, if_true] at h1
          simp [← h1] at h'
      subst hkk
      have hv : v = v' := by simpa [Memory.read] using hr k
      subst hv
      congr 1
      refine ih h.2 h'.2 fun i => ?_
      by_cases hi : k = i
      · subst hi
        rw [Memory.read_of_lt_wfFrom h.2 (by omega), Memory.read_of_lt_wfFrom h'.2 (by omega)]
      · have := hr i
        simpa [Memory.read, hi] using this

theorem Memory.ext {m m' : Memory w} (h : m.wf = true) (h' : m'.wf = true) (hr : ∀ i, m.read i = m'.read i) : m = m' :=
  Memory.ext_wfFrom h h' hr

theorem Memory.wfFrom_ofListFrom (vs : List (BitVec w)) (base : Nat) :
    (Memory.ofListFrom base vs).wfFrom base = true := by
  induction vs generalizing base with
  | nil => rfl
  | cons v rest ih =>
    unfold Memory.ofListFrom
    by_cases hv : v = 0#w
    · simpa [hv] using Memory.wfFrom_mono (ih (base + 1)) (Nat.le_succ base)
    · simp only [hv, if_false, Memory.wfFrom, Bool.and_eq_true, decide_eq_true_eq]
      exact ⟨⟨Nat.le_refl base, by simpa using hv⟩, ih (base + 1)⟩

/-- A memory built from a list is in canonical form. -/
theorem Memory.wf_ofList (size : Nat) (vs : List (BitVec w)) : (Memory.ofList size vs).wf = true :=
  Memory.wfFrom_ofListFrom _ 0

theorem Memory.within_ofListFrom (vs : List (BitVec w)) (base size : Nat) (h : base + vs.length ≤ size) :
    (Memory.ofListFrom base vs).within size = true := by
  induction vs generalizing base with
  | nil => rfl
  | cons v rest ih =>
    simp only [List.length_cons] at h
    have := ih (base + 1) (by omega)
    unfold Memory.ofListFrom
    by_cases hv : v = 0#w
    · simpa [hv] using this
    · simp only [hv, if_false, Memory.within, List.all_cons, Bool.and_eq_true, decide_eq_true_eq]
      exact ⟨by omega, this⟩

/-- A memory built from a list lies within its size. -/
theorem Memory.within_ofList (size : Nat) (vs : List (BitVec w)) : (Memory.ofList size vs).within size = true :=
  Memory.within_ofListFrom _ 0 size (by simp [List.length_take])

theorem Memory.read_ofListFrom (vs : List (BitVec w)) (base i : Nat) :
    (Memory.ofListFrom base vs).read (base + i) = vs.getD i 0#w := by
  induction vs generalizing base i with
  | nil => simp [Memory.ofListFrom]
  | cons v rest ih =>
    have hstep : (Memory.ofListFrom base (v :: rest)).read (base + i) =
        if base = base + i then v else (Memory.ofListFrom (base + 1) rest).read (base + i) := by
      rw [Memory.ofListFrom]
      by_cases hv : v = 0#w
      · simp only [hv, if_true]
        split
        · rename_i he
          rw [← he]
          exact Memory.read_of_lt_wfFrom (Memory.wfFrom_ofListFrom rest (base + 1)) (by omega)
        · rfl
      · simp only [hv, if_false, Memory.read]
    rw [hstep]
    cases i with
    | zero => simp
    | succ n =>
      have hne : ¬ base = base + (n + 1) := by omega
      simp only [hne, if_false, List.getD_cons_succ]
      rw [← ih (base + 1) n]
      congr 1
      omega

/-- Reading a memory built from a list gives the list's value inside the size. -/
theorem Memory.read_ofList (size i : Nat) (vs : List (BitVec w)) (h : i < size) :
    (Memory.ofList size vs).read i = vs.getD i 0#w := by
  have := Memory.read_ofListFrom (vs.take size) 0 i
  rw [Nat.zero_add] at this
  unfold Memory.ofList
  rw [this]
  simp [List.getD, h]

theorem Memory.ofListFrom_replicate_zero (n base : Nat) :
    Memory.ofListFrom base (List.replicate n 0#w) = [] := by
  induction n generalizing base with
  | zero => rfl
  | succ n ih => simp [List.replicate_succ, Memory.ofListFrom, ih]

end Sys2Proof
end

