-- ==== Sys2Proof/Laws/State.lean ====
section
/-! SUPPORT. What each writer of a piece of state does to each piece of state. -/
namespace Sys2Proof.Machine

section
variable (s : State) (v : Byte)
@[simp] theorem State.setA_cfg : (s.setA v).cfg = s.cfg := rfl
@[simp] theorem State.setA_a : (s.setA v).a = v := rfl
@[simp] theorem State.setA_x : (s.setA v).x = s.x := rfl
@[simp] theorem State.setA_y : (s.setA v).y = s.y := rfl
@[simp] theorem State.setA_sp : (s.setA v).sp = s.sp := rfl
@[simp] theorem State.setA_pc : (s.setA v).pc = s.pc := rfl
@[simp] theorem State.setA_flags : (s.setA v).flags = s.flags := rfl
@[simp] theorem State.setA_cyc : (s.setA v).cyc = s.cyc := rfl
@[simp] theorem State.setA_nmiPending : (s.setA v).nmiPending = s.nmiPending := rfl
@[simp] theorem State.setA_fault : (s.setA v).fault = s.fault := rfl
@[simp] theorem State.setA_ram : (s.setA v).ram = s.ram := rfl
@[simp] theorem State.setA_prgRam : (s.setA v).prgRam = s.prgRam := rfl
@[simp] theorem State.setA_chrRam : (s.setA v).chrRam = s.chrRam := rfl
@[simp] theorem State.setA_map : (s.setA v).map = s.map := rfl
@[simp] theorem State.setA_ppu : (s.setA v).ppu = s.ppu := rfl
@[simp] theorem State.setA_spriteDraws : (s.setA v).spriteDraws = s.spriteDraws := rfl
end

section
variable (s : State) (v : Byte)
@[simp] theorem State.setX_cfg : (s.setX v).cfg = s.cfg := rfl
@[simp] theorem State.setX_a : (s.setX v).a = s.a := rfl
@[simp] theorem State.setX_x : (s.setX v).x = v := rfl
@[simp] theorem State.setX_y : (s.setX v).y = s.y := rfl
@[simp] theorem State.setX_sp : (s.setX v).sp = s.sp := rfl
@[simp] theorem State.setX_pc : (s.setX v).pc = s.pc := rfl
@[simp] theorem State.setX_flags : (s.setX v).flags = s.flags := rfl
@[simp] theorem State.setX_cyc : (s.setX v).cyc = s.cyc := rfl
@[simp] theorem State.setX_nmiPending : (s.setX v).nmiPending = s.nmiPending := rfl
@[simp] theorem State.setX_fault : (s.setX v).fault = s.fault := rfl
@[simp] theorem State.setX_ram : (s.setX v).ram = s.ram := rfl
@[simp] theorem State.setX_prgRam : (s.setX v).prgRam = s.prgRam := rfl
@[simp] theorem State.setX_chrRam : (s.setX v).chrRam = s.chrRam := rfl
@[simp] theorem State.setX_map : (s.setX v).map = s.map := rfl
@[simp] theorem State.setX_ppu : (s.setX v).ppu = s.ppu := rfl
@[simp] theorem State.setX_spriteDraws : (s.setX v).spriteDraws = s.spriteDraws := rfl
end

section
variable (s : State) (v : Byte)
@[simp] theorem State.setY_cfg : (s.setY v).cfg = s.cfg := rfl
@[simp] theorem State.setY_a : (s.setY v).a = s.a := rfl
@[simp] theorem State.setY_x : (s.setY v).x = s.x := rfl
@[simp] theorem State.setY_y : (s.setY v).y = v := rfl
@[simp] theorem State.setY_sp : (s.setY v).sp = s.sp := rfl
@[simp] theorem State.setY_pc : (s.setY v).pc = s.pc := rfl
@[simp] theorem State.setY_flags : (s.setY v).flags = s.flags := rfl
@[simp] theorem State.setY_cyc : (s.setY v).cyc = s.cyc := rfl
@[simp] theorem State.setY_nmiPending : (s.setY v).nmiPending = s.nmiPending := rfl
@[simp] theorem State.setY_fault : (s.setY v).fault = s.fault := rfl
@[simp] theorem State.setY_ram : (s.setY v).ram = s.ram := rfl
@[simp] theorem State.setY_prgRam : (s.setY v).prgRam = s.prgRam := rfl
@[simp] theorem State.setY_chrRam : (s.setY v).chrRam = s.chrRam := rfl
@[simp] theorem State.setY_map : (s.setY v).map = s.map := rfl
@[simp] theorem State.setY_ppu : (s.setY v).ppu = s.ppu := rfl
@[simp] theorem State.setY_spriteDraws : (s.setY v).spriteDraws = s.spriteDraws := rfl
end

section
variable (s : State) (v : Byte)
@[simp] theorem State.setSp_cfg : (s.setSp v).cfg = s.cfg := rfl
@[simp] theorem State.setSp_a : (s.setSp v).a = s.a := rfl
@[simp] theorem State.setSp_x : (s.setSp v).x = s.x := rfl
@[simp] theorem State.setSp_y : (s.setSp v).y = s.y := rfl
@[simp] theorem State.setSp_sp : (s.setSp v).sp = v := rfl
@[simp] theorem State.setSp_pc : (s.setSp v).pc = s.pc := rfl
@[simp] theorem State.setSp_flags : (s.setSp v).flags = s.flags := rfl
@[simp] theorem State.setSp_cyc : (s.setSp v).cyc = s.cyc := rfl
@[simp] theorem State.setSp_nmiPending : (s.setSp v).nmiPending = s.nmiPending := rfl
@[simp] theorem State.setSp_fault : (s.setSp v).fault = s.fault := rfl
@[simp] theorem State.setSp_ram : (s.setSp v).ram = s.ram := rfl
@[simp] theorem State.setSp_prgRam : (s.setSp v).prgRam = s.prgRam := rfl
@[simp] theorem State.setSp_chrRam : (s.setSp v).chrRam = s.chrRam := rfl
@[simp] theorem State.setSp_map : (s.setSp v).map = s.map := rfl
@[simp] theorem State.setSp_ppu : (s.setSp v).ppu = s.ppu := rfl
@[simp] theorem State.setSp_spriteDraws : (s.setSp v).spriteDraws = s.spriteDraws := rfl
end

section
variable (s : State) (v : Word)
@[simp] theorem State.setPc_cfg : (s.setPc v).cfg = s.cfg := rfl
@[simp] theorem State.setPc_a : (s.setPc v).a = s.a := rfl
@[simp] theorem State.setPc_x : (s.setPc v).x = s.x := rfl
@[simp] theorem State.setPc_y : (s.setPc v).y = s.y := rfl
@[simp] theorem State.setPc_sp : (s.setPc v).sp = s.sp := rfl
@[simp] theorem State.setPc_pc : (s.setPc v).pc = v := rfl
@[simp] theorem State.setPc_flags : (s.setPc v).flags = s.flags := rfl
@[simp] theorem State.setPc_cyc : (s.setPc v).cyc = s.cyc := rfl
@[simp] theorem State.setPc_nmiPending : (s.setPc v).nmiPending = s.nmiPending := rfl
@[simp] theorem State.setPc_fault : (s.setPc v).fault = s.fault := rfl
@[simp] theorem State.setPc_ram : (s.setPc v).ram = s.ram := rfl
@[simp] theorem State.setPc_prgRam : (s.setPc v).prgRam = s.prgRam := rfl
@[simp] theorem State.setPc_chrRam : (s.setPc v).chrRam = s.chrRam := rfl
@[simp] theorem State.setPc_map : (s.setPc v).map = s.map := rfl
@[simp] theorem State.setPc_ppu : (s.setPc v).ppu = s.ppu := rfl
@[simp] theorem State.setPc_spriteDraws : (s.setPc v).spriteDraws = s.spriteDraws := rfl
end

section
variable (s : State) (v : Flags)
@[simp] theorem State.setFlags_cfg : (s.setFlags v).cfg = s.cfg := rfl
@[simp] theorem State.setFlags_a : (s.setFlags v).a = s.a := rfl
@[simp] theorem State.setFlags_x : (s.setFlags v).x = s.x := rfl
@[simp] theorem State.setFlags_y : (s.setFlags v).y = s.y := rfl
@[simp] theorem State.setFlags_sp : (s.setFlags v).sp = s.sp := rfl
@[simp] theorem State.setFlags_pc : (s.setFlags v).pc = s.pc := rfl
@[simp] theorem State.setFlags_flags : (s.setFlags v).flags = v := rfl
@[simp] theorem State.setFlags_cyc : (s.setFlags v).cyc = s.cyc := rfl
@[simp] theorem State.setFlags_nmiPending : (s.setFlags v).nmiPending = s.nmiPending := rfl
@[simp] theorem State.setFlags_fault : (s.setFlags v).fault = s.fault := rfl
@[simp] theorem State.setFlags_ram : (s.setFlags v).ram = s.ram := rfl
@[simp] theorem State.setFlags_prgRam : (s.setFlags v).prgRam = s.prgRam := rfl
@[simp] theorem State.setFlags_chrRam : (s.setFlags v).chrRam = s.chrRam := rfl
@[simp] theorem State.setFlags_map : (s.setFlags v).map = s.map := rfl
@[simp] theorem State.setFlags_ppu : (s.setFlags v).ppu = s.ppu := rfl
@[simp] theorem State.setFlags_spriteDraws : (s.setFlags v).spriteDraws = s.spriteDraws := rfl
end

section
variable (s : State) (v : Nat)
@[simp] theorem State.setCyc_cfg : (s.setCyc v).cfg = s.cfg := rfl
@[simp] theorem State.setCyc_a : (s.setCyc v).a = s.a := rfl
@[simp] theorem State.setCyc_x : (s.setCyc v).x = s.x := rfl
@[simp] theorem State.setCyc_y : (s.setCyc v).y = s.y := rfl
@[simp] theorem State.setCyc_sp : (s.setCyc v).sp = s.sp := rfl
@[simp] theorem State.setCyc_pc : (s.setCyc v).pc = s.pc := rfl
@[simp] theorem State.setCyc_flags : (s.setCyc v).flags = s.flags := rfl
@[simp] theorem State.setCyc_cyc : (s.setCyc v).cyc = v := rfl
@[simp] theorem State.setCyc_nmiPending : (s.setCyc v).nmiPending = s.nmiPending := rfl
@[simp] theorem State.setCyc_fault : (s.setCyc v).fault = s.fault := rfl
@[simp] theorem State.setCyc_ram : (s.setCyc v).ram = s.ram := rfl
@[simp] theorem State.setCyc_prgRam : (s.setCyc v).prgRam = s.prgRam := rfl
@[simp] theorem State.setCyc_chrRam : (s.setCyc v).chrRam = s.chrRam := rfl
@[simp] theorem State.setCyc_map : (s.setCyc v).map = s.map := rfl
@[simp] theorem State.setCyc_ppu : (s.setCyc v).ppu = s.ppu := rfl
@[simp] theorem State.setCyc_spriteDraws : (s.setCyc v).spriteDraws = s.spriteDraws := rfl
end

section
variable (s : State) (v : Bool)
@[simp] theorem State.setNmiPending_cfg : (s.setNmiPending v).cfg = s.cfg := rfl
@[simp] theorem State.setNmiPending_a : (s.setNmiPending v).a = s.a := rfl
@[simp] theorem State.setNmiPending_x : (s.setNmiPending v).x = s.x := rfl
@[simp] theorem State.setNmiPending_y : (s.setNmiPending v).y = s.y := rfl
@[simp] theorem State.setNmiPending_sp : (s.setNmiPending v).sp = s.sp := rfl
@[simp] theorem State.setNmiPending_pc : (s.setNmiPending v).pc = s.pc := rfl
@[simp] theorem State.setNmiPending_flags : (s.setNmiPending v).flags = s.flags := rfl
@[simp] theorem State.setNmiPending_cyc : (s.setNmiPending v).cyc = s.cyc := rfl
@[simp] theorem State.setNmiPending_nmiPending : (s.setNmiPending v).nmiPending = v := rfl
@[simp] theorem State.setNmiPending_fault : (s.setNmiPending v).fault = s.fault := rfl
@[simp] theorem State.setNmiPending_ram : (s.setNmiPending v).ram = s.ram := rfl
@[simp] theorem State.setNmiPending_prgRam : (s.setNmiPending v).prgRam = s.prgRam := rfl
@[simp] theorem State.setNmiPending_chrRam : (s.setNmiPending v).chrRam = s.chrRam := rfl
@[simp] theorem State.setNmiPending_map : (s.setNmiPending v).map = s.map := rfl
@[simp] theorem State.setNmiPending_ppu : (s.setNmiPending v).ppu = s.ppu := rfl
@[simp] theorem State.setNmiPending_spriteDraws : (s.setNmiPending v).spriteDraws = s.spriteDraws := rfl
end

section
variable (s : State) (v : Option FaultRecord)
@[simp] theorem State.setFault_cfg : (s.setFault v).cfg = s.cfg := rfl
@[simp] theorem State.setFault_a : (s.setFault v).a = s.a := rfl
@[simp] theorem State.setFault_x : (s.setFault v).x = s.x := rfl
@[simp] theorem State.setFault_y : (s.setFault v).y = s.y := rfl
@[simp] theorem State.setFault_sp : (s.setFault v).sp = s.sp := rfl
@[simp] theorem State.setFault_pc : (s.setFault v).pc = s.pc := rfl
@[simp] theorem State.setFault_flags : (s.setFault v).flags = s.flags := rfl
@[simp] theorem State.setFault_cyc : (s.setFault v).cyc = s.cyc := rfl
@[simp] theorem State.setFault_nmiPending : (s.setFault v).nmiPending = s.nmiPending := rfl
@[simp] theorem State.setFault_fault : (s.setFault v).fault = v := rfl
@[simp] theorem State.setFault_ram : (s.setFault v).ram = s.ram := rfl
@[simp] theorem State.setFault_prgRam : (s.setFault v).prgRam = s.prgRam := rfl
@[simp] theorem State.setFault_chrRam : (s.setFault v).chrRam = s.chrRam := rfl
@[simp] theorem State.setFault_map : (s.setFault v).map = s.map := rfl
@[simp] theorem State.setFault_ppu : (s.setFault v).ppu = s.ppu := rfl
@[simp] theorem State.setFault_spriteDraws : (s.setFault v).spriteDraws = s.spriteDraws := rfl
end

section
variable (s : State) (v : Memory 8)
@[simp] theorem State.setRam_cfg : (s.setRam v).cfg = s.cfg := rfl
@[simp] theorem State.setRam_a : (s.setRam v).a = s.a := rfl
@[simp] theorem State.setRam_x : (s.setRam v).x = s.x := rfl
@[simp] theorem State.setRam_y : (s.setRam v).y = s.y := rfl
@[simp] theorem State.setRam_sp : (s.setRam v).sp = s.sp := rfl
@[simp] theorem State.setRam_pc : (s.setRam v).pc = s.pc := rfl
@[simp] theorem State.setRam_flags : (s.setRam v).flags = s.flags := rfl
@[simp] theorem State.setRam_cyc : (s.setRam v).cyc = s.cyc := rfl
@[simp] theorem State.setRam_nmiPending : (s.setRam v).nmiPending = s.nmiPending := rfl
@[simp] theorem State.setRam_fault : (s.setRam v).fault = s.fault := rfl
@[simp] theorem State.setRam_ram : (s.setRam v).ram = v := rfl
@[simp] theorem State.setRam_prgRam : (s.setRam v).prgRam = s.prgRam := rfl
@[simp] theorem State.setRam_chrRam : (s.setRam v).chrRam = s.chrRam := rfl
@[simp] theorem State.setRam_map : (s.setRam v).map = s.map := rfl
@[simp] theorem State.setRam_ppu : (s.setRam v).ppu = s.ppu := rfl
@[simp] theorem State.setRam_spriteDraws : (s.setRam v).spriteDraws = s.spriteDraws := rfl
end

section
variable (s : State) (v : Memory 8)
@[simp] theorem State.setPrgRam_cfg : (s.setPrgRam v).cfg = s.cfg := rfl
@[simp] theorem State.setPrgRam_a : (s.setPrgRam v).a = s.a := rfl
@[simp] theorem State.setPrgRam_x : (s.setPrgRam v).x = s.x := rfl
@[simp] theorem State.setPrgRam_y : (s.setPrgRam v).y = s.y := rfl
@[simp] theorem State.setPrgRam_sp : (s.setPrgRam v).sp = s.sp := rfl
@[simp] theorem State.setPrgRam_pc : (s.setPrgRam v).pc = s.pc := rfl
@[simp] theorem State.setPrgRam_flags : (s.setPrgRam v).flags = s.flags := rfl
@[simp] theorem State.setPrgRam_cyc : (s.setPrgRam v).cyc = s.cyc := rfl
@[simp] theorem State.setPrgRam_nmiPending : (s.setPrgRam v).nmiPending = s.nmiPending := rfl
@[simp] theorem State.setPrgRam_fault : (s.setPrgRam v).fault = s.fault := rfl
@[simp] theorem State.setPrgRam_ram : (s.setPrgRam v).ram = s.ram := rfl
@[simp] theorem State.setPrgRam_prgRam : (s.setPrgRam v).prgRam = v := rfl
@[simp] theorem State.setPrgRam_chrRam : (s.setPrgRam v).chrRam = s.chrRam := rfl
@[simp] theorem State.setPrgRam_map : (s.setPrgRam v).map = s.map := rfl
@[simp] theorem State.setPrgRam_ppu : (s.setPrgRam v).ppu = s.ppu := rfl
@[simp] theorem State.setPrgRam_spriteDraws : (s.setPrgRam v).spriteDraws = s.spriteDraws := rfl
end

section
variable (s : State) (v : Memory 8)
@[simp] theorem State.setChrRam_cfg : (s.setChrRam v).cfg = s.cfg := rfl
@[simp] theorem State.setChrRam_a : (s.setChrRam v).a = s.a := rfl
@[simp] theorem State.setChrRam_x : (s.setChrRam v).x = s.x := rfl
@[simp] theorem State.setChrRam_y : (s.setChrRam v).y = s.y := rfl
@[simp] theorem State.setChrRam_sp : (s.setChrRam v).sp = s.sp := rfl
@[simp] theorem State.setChrRam_pc : (s.setChrRam v).pc = s.pc := rfl
@[simp] theorem State.setChrRam_flags : (s.setChrRam v).flags = s.flags := rfl
@[simp] theorem State.setChrRam_cyc : (s.setChrRam v).cyc = s.cyc := rfl
@[simp] theorem State.setChrRam_nmiPending : (s.setChrRam v).nmiPending = s.nmiPending := rfl
@[simp] theorem State.setChrRam_fault : (s.setChrRam v).fault = s.fault := rfl
@[simp] theorem State.setChrRam_ram : (s.setChrRam v).ram = s.ram := rfl
@[simp] theorem State.setChrRam_prgRam : (s.setChrRam v).prgRam = s.prgRam := rfl
@[simp] theorem State.setChrRam_chrRam : (s.setChrRam v).chrRam = v := rfl
@[simp] theorem State.setChrRam_map : (s.setChrRam v).map = s.map := rfl
@[simp] theorem State.setChrRam_ppu : (s.setChrRam v).ppu = s.ppu := rfl
@[simp] theorem State.setChrRam_spriteDraws : (s.setChrRam v).spriteDraws = s.spriteDraws := rfl
end

section
variable (s : State) (v : MapState)
@[simp] theorem State.setMap_cfg : (s.setMap v).cfg = s.cfg := rfl
@[simp] theorem State.setMap_a : (s.setMap v).a = s.a := rfl
@[simp] theorem State.setMap_x : (s.setMap v).x = s.x := rfl
@[simp] theorem State.setMap_y : (s.setMap v).y = s.y := rfl
@[simp] theorem State.setMap_sp : (s.setMap v).sp = s.sp := rfl
@[simp] theorem State.setMap_pc : (s.setMap v).pc = s.pc := rfl
@[simp] theorem State.setMap_flags : (s.setMap v).flags = s.flags := rfl
@[simp] theorem State.setMap_cyc : (s.setMap v).cyc = s.cyc := rfl
@[simp] theorem State.setMap_nmiPending : (s.setMap v).nmiPending = s.nmiPending := rfl
@[simp] theorem State.setMap_fault : (s.setMap v).fault = s.fault := rfl
@[simp] theorem State.setMap_ram : (s.setMap v).ram = s.ram := rfl
@[simp] theorem State.setMap_prgRam : (s.setMap v).prgRam = s.prgRam := rfl
@[simp] theorem State.setMap_chrRam : (s.setMap v).chrRam = s.chrRam := rfl
@[simp] theorem State.setMap_map : (s.setMap v).map = v := rfl
@[simp] theorem State.setMap_ppu : (s.setMap v).ppu = s.ppu := rfl
@[simp] theorem State.setMap_spriteDraws : (s.setMap v).spriteDraws = s.spriteDraws := rfl
end

section
variable (s : State) (v : Ppu)
@[simp] theorem State.setPpu_cfg : (s.setPpu v).cfg = s.cfg := rfl
@[simp] theorem State.setPpu_a : (s.setPpu v).a = s.a := rfl
@[simp] theorem State.setPpu_x : (s.setPpu v).x = s.x := rfl
@[simp] theorem State.setPpu_y : (s.setPpu v).y = s.y := rfl
@[simp] theorem State.setPpu_sp : (s.setPpu v).sp = s.sp := rfl
@[simp] theorem State.setPpu_pc : (s.setPpu v).pc = s.pc := rfl
@[simp] theorem State.setPpu_flags : (s.setPpu v).flags = s.flags := rfl
@[simp] theorem State.setPpu_cyc : (s.setPpu v).cyc = s.cyc := rfl
@[simp] theorem State.setPpu_nmiPending : (s.setPpu v).nmiPending = s.nmiPending := rfl
@[simp] theorem State.setPpu_fault : (s.setPpu v).fault = s.fault := rfl
@[simp] theorem State.setPpu_ram : (s.setPpu v).ram = s.ram := rfl
@[simp] theorem State.setPpu_prgRam : (s.setPpu v).prgRam = s.prgRam := rfl
@[simp] theorem State.setPpu_chrRam : (s.setPpu v).chrRam = s.chrRam := rfl
@[simp] theorem State.setPpu_map : (s.setPpu v).map = s.map := rfl
@[simp] theorem State.setPpu_ppu : (s.setPpu v).ppu = v := rfl
@[simp] theorem State.setPpu_spriteDraws : (s.setPpu v).spriteDraws = s.spriteDraws := rfl
end

section
variable (s : State) (v : Nat)
@[simp] theorem State.setSpriteDraws_cfg : (s.setSpriteDraws v).cfg = s.cfg := rfl
@[simp] theorem State.setSpriteDraws_a : (s.setSpriteDraws v).a = s.a := rfl
@[simp] theorem State.setSpriteDraws_x : (s.setSpriteDraws v).x = s.x := rfl
@[simp] theorem State.setSpriteDraws_y : (s.setSpriteDraws v).y = s.y := rfl
@[simp] theorem State.setSpriteDraws_sp : (s.setSpriteDraws v).sp = s.sp := rfl
@[simp] theorem State.setSpriteDraws_pc : (s.setSpriteDraws v).pc = s.pc := rfl
@[simp] theorem State.setSpriteDraws_flags : (s.setSpriteDraws v).flags = s.flags := rfl
@[simp] theorem State.setSpriteDraws_cyc : (s.setSpriteDraws v).cyc = s.cyc := rfl
@[simp] theorem State.setSpriteDraws_nmiPending : (s.setSpriteDraws v).nmiPending = s.nmiPending := rfl
@[simp] theorem State.setSpriteDraws_fault : (s.setSpriteDraws v).fault = s.fault := rfl
@[simp] theorem State.setSpriteDraws_ram : (s.setSpriteDraws v).ram = s.ram := rfl
@[simp] theorem State.setSpriteDraws_prgRam : (s.setSpriteDraws v).prgRam = s.prgRam := rfl
@[simp] theorem State.setSpriteDraws_chrRam : (s.setSpriteDraws v).chrRam = s.chrRam := rfl
@[simp] theorem State.setSpriteDraws_map : (s.setSpriteDraws v).map = s.map := rfl
@[simp] theorem State.setSpriteDraws_ppu : (s.setSpriteDraws v).ppu = s.ppu := rfl
@[simp] theorem State.setSpriteDraws_spriteDraws : (s.setSpriteDraws v).spriteDraws = v := rfl
end

end Sys2Proof.Machine
end

