-- ==== Sys2Proof/Laws/Bus.lean ====
section
/-! SUPPORT. What each bus access does, by region, and that the accesses the model makes directly are the bus accesses of the
rules. -/
namespace Sys2Proof.Machine

section
variable {a : Word} (s : State) (v : Byte)

theorem resolve_ram (h : a.toNat < 0x2000) : resolve a = .ram (a.toNat % 0x800) := by
  simp [resolve, h]

theorem resolve_ppu (h : 0x2000 ≤ a.toNat) (h' : a.toNat < 0x4000) : resolve a = .ppu (ppuRegOf a) := by
  have : ¬ a.toNat < 8192 := by omega
  simp [resolve, this, h']

theorem resolve_prgRam (h : 0x6000 ≤ a.toNat) (h' : a.toNat < 0x8000) : resolve a = .prgRam (a.toNat - 0x6000) := by
  have h1 : ¬ a.toNat < 8192 := by omega
  have h2 : ¬ a.toNat < 16384 := by omega
  have h3 : ¬ a.toNat < 16408 := by omega
  have h4 : ¬ a.toNat < 16416 := by omega
  have h5 : ¬ a.toNat < 24576 := by omega
  simp [resolve, h1, h2, h3, h4, h5, h']

theorem resolve_prgRom (h : 0x8000 ≤ a.toNat) : resolve a = .prgRom := by
  have h1 : ¬ a.toNat < 8192 := by omega
  have h2 : ¬ a.toNat < 16384 := by omega
  have h3 : ¬ a.toNat < 16408 := by omega
  have h4 : ¬ a.toNat < 16416 := by omega
  have h5 : ¬ a.toNat < 24576 := by omega
  have h6 : ¬ a.toNat < 32768 := by omega
  simp [resolve, h1, h2, h3, h4, h5, h6]

theorem busRead_ram (h : a.toNat < 0x2000) : busRead a s = .ok (s.ram.read (a.toNat % 0x800)) s := by
  simp [busRead, accessFault, resolve_ram h]

theorem busWrite_ram (h : a.toNat < 0x2000) :
    busWrite a v s = .ok () (s.setRam (s.ram.write (a.toNat % 0x800) v)) := by
  simp [busWrite, accessFault, resolve_ram h]

theorem busRead_ppu (h : 0x2000 ≤ a.toNat) (h' : a.toNat < 0x4000) :
    busRead a s = .ok (ppuRead (ppuRegOf a) s).1 (ppuRead (ppuRegOf a) s).2 := by
  simp [busRead, accessFault, resolve_ppu h h']

theorem busWrite_ppu (h : 0x2000 ≤ a.toNat) (h' : a.toNat < 0x4000) :
    busWrite a v s = .ok () (ppuWrite (ppuRegOf a) v s) := by
  simp [busWrite, accessFault, resolve_ppu h h']

theorem busRead_prgRom (h : 0x8000 ≤ a.toNat) : busRead a s = .ok (prgRead a s) s := by
  simp [busRead, accessFault, resolve_prgRom h]

theorem busWrite_prgRom (h : 0x8000 ≤ a.toNat) : busWrite a v s = .ok () (mapWrite a v s) := by
  simp [busWrite, accessFault, resolve_prgRom h]

end

/-- What a read answers, once for all regions: an error that leaves the state alone; or a byte with no side effect; or a
picture-unit register read. -/
theorem busRead_cases {a : Word} {s : State} :
    (∃ k, accessFault a s = some k ∧ busRead a s = .raise k s) ∨
    (accessFault a s = none ∧ ∃ v, busRead a s = .ok v s) ∨
    (accessFault a s = none ∧ ∃ r, resolve a = .ppu r ∧ busRead a s = .ok (ppuRead r s).1 (ppuRead r s).2) := by
  unfold busRead
  cases h : accessFault a s with
  | some k => exact .inl ⟨k, rfl, rfl⟩
  | none =>
    cases hr : resolve a with
    | ppu r => exact .inr (.inr ⟨rfl, r, rfl, rfl⟩)
    | apuIo | testRegion | cartUnused => simp [accessFault, hr] at h
    | ram i | prgRam i | prgRom => exact .inr (.inl ⟨rfl, _, rfl⟩)

/-- A read fails exactly when the access faults. -/
theorem busRead_ok_iff {a : Word} {s : State} : (∃ v t, busRead a s = .ok v t) ↔ accessFault a s = none := by
  rcases busRead_cases (a := a) (s := s) with ⟨k, h, hb⟩ | ⟨h, v, hb⟩ | ⟨h, r, _, hb⟩ <;> simp [h, hb]

/-- A write fails exactly when the access faults. -/
theorem busWrite_ok_iff {a : Word} {v : Byte} {s : State} :
    (∃ t, busWrite a v s = .ok () t) ↔ accessFault a s = none := by
  unfold busWrite
  cases h : accessFault a s with
  | some k => simp
  | none => cases hr : resolve a <;> simp_all [accessFault]

theorem zext16_toNat (n : Byte) : (zext16 n).toNat = n.toNat := by
  simp [zext16, BitVec.toNat_setWidth]
  omega

/-- The pointer bytes of the indirect modes are bus reads (30_encoding.md Table R91). -/
theorem busRead_zeroPage (n : Byte) (s : State) : busRead (zext16 n) s = .ok (zeroPage n s) s := by
  have hn := n.isLt
  have h : (zext16 n).toNat < 0x2000 := by rw [zext16_toNat]; omega
  rw [busRead_ram s h, zext16_toNat, Nat.mod_eq_of_lt (by omega)]
  rfl

/-- The CPU address of the stack byte, `0x0100 + SP` (10_state.md R16). -/
theorem stackAddr_toNat (p : Byte) : (0x0100 + zext16 p).toNat = stackIndex p := by
  have hp := p.isLt
  rw [BitVec.toNat_add, zext16_toNat]
  simp [stackIndex]
  omega

/-- A push is the bus write of `0x0100 + SP` (40_dispatch.md R104). -/
theorem busWrite_stack (p v : Byte) (s : State) :
    busWrite (0x0100 + zext16 p) v s = .ok () (s.setRam (s.ram.write (stackIndex p) v)) := by
  have hp := p.isLt
  have h : (0x0100 + zext16 p).toNat < 0x2000 := by rw [stackAddr_toNat]; unfold stackIndex; omega
  rw [busWrite_ram s v h, stackAddr_toNat, Nat.mod_eq_of_lt (by unfold stackIndex; omega)]

/-- A pop is the bus read of `0x0100 + SP` (40_dispatch.md R104). -/
theorem busRead_stack (p : Byte) (s : State) : busRead (0x0100 + zext16 p) s = .ok (s.ram.read (stackIndex p)) s := by
  have hp := p.isLt
  have h : (0x0100 + zext16 p).toNat < 0x2000 := by rw [stackAddr_toNat]; unfold stackIndex; omega
  rw [busRead_ram s h, stackAddr_toNat, Nat.mod_eq_of_lt (by unfold stackIndex; omega)]

/-- A vector read is the 16-bit bus read of the vector's address (60_exceptions.md R175). -/
theorem busRead16_vector {a : Word} (h : 0x8000 ≤ a.toNat) (h' : a.toNat < 0xFFFF) (s : State) :
    busRead16 a s = .ok (readVector a s) s := by
  have h1 : 0x8000 ≤ (a + 1).toNat := by
    rw [BitVec.toNat_add]; simp; omega
  simp only [busRead16, Access.andThen, busRead_prgRom s h, busRead_prgRom s h1, readVector]

end Sys2Proof.Machine
end

