-- ==== Sys2Proof/Laws/Construct.lean ====
section
/-! SUPPORT. The state after reset is a constructed one, and its memories are in canonical form. -/
namespace Sys2Proof.Machine

/-- `State.reset` is what construction makes of the image and the draws that log 3 and log 4 name. -/
theorem reset_is_constructed : construct resetImage Params.default zeroDraws = .ok State.reset := by
  have hlen : resetImage.prgRom.length = 16384 := List.length_replicate
  have hrom : Memory.ofList resetImage.prgRom.length resetImage.prgRom = [] := by
    rw [Memory.ofList, List.take_length]
    exact Memory.ofListFrom_replicate_zero 16384 0
  have hcfg : configOf resetImage Params.default = resetConfig := by
    unfold configOf
    rw [hrom]
    rfl
  have herr : imageError resetImage = none := by
    unfold imageError
    rw [hlen]
    rfl
  unfold construct
  rw [herr, hcfg]
  rfl

/-- The memories after reset are in canonical form. -/
theorem reset_memories_wf :
    (State.reset.ram.wf && State.reset.prgRam.wf && State.reset.chrRam.wf && State.reset.ppu.oam.wf &&
      State.reset.ppu.ciram.wf && State.reset.ppu.pal.wf) = true := rfl

end Sys2Proof.Machine
end

