-- ==== Sys2Proof/Laws/Devices.lean ====
section
/-! SUPPORT. Every index a device or a memory access computes lies inside its memory, and the flag and status-byte formulas of the
claims are the model's. -/
namespace Sys2Proof.Machine

/-- A RAM access is inside RAM (20_memory.md R48). -/
theorem resolve_ram_lt {a : Word} {i : Nat} (h : resolve a = .ram i) : i < 2048 := by
  by_cases ha : a.toNat < 0x2000
  · rw [resolve_ram ha] at h
    cases h
    omega
  · unfold resolve at h
    dsimp only at h
    split_ifs at h

/-- A PRG-RAM access is inside PRG-RAM (20_memory.md R53). -/
theorem resolve_prgRam_lt {a : Word} {i : Nat} (h : resolve a = .prgRam i) : i < 8192 := by
  unfold resolve at h
  dsimp only at h
  split_ifs at h
  injection h with h
  omega

/-- A nametable access is inside CIRAM (20_memory.md R80). -/
theorem ciramIndex_lt (m : Mirroring) (a : Nat) : ciramIndex m a < 2048 := by
  have : ciramPage m (a / 0x400 % 4) ≤ 1 := by
    cases m <;> simp only [ciramPage] <;> omega
  unfold ciramIndex
  omega

/-- A palette access is inside the palette (20_memory.md R81). -/
theorem paletteIndex_lt (a : Nat) : paletteIndex a < 32 := by
  unfold paletteIndex
  dsimp only
  split <;> omega

/-- What a PPU address resolves to lies inside its memory (20_memory.md Table R79). -/
theorem ppuResolve_bounds (m : Mirroring) (a : BitVec 14) :
    match ppuResolve m a with
    | .chr n => n < 0x2000
    | .ciram i => i < 2048
    | .palette i => i < 32 := by
  unfold ppuResolve
  dsimp only
  split_ifs with h1 h2 h3
  · exact h1
  · exact ciramIndex_lt _ _
  · exact ciramIndex_lt _ _
  · exact paletteIndex_lt _

/-- A CHR access is inside CHR (20_memory.md R61). -/
theorem chrIndex_lt {s : State} (a : Nat) (h : s.cfg.chrRomLen % 8192 = 0) :
    chrIndex a s < if chrIsRam s.cfg then 8192 else s.cfg.chrRomLen := by
  have hpos : 0 < chrBanks s.cfg := by
    unfold chrBanks chrIsRam
    split
    · decide
    · rename_i hn
      have : s.cfg.chrRomLen ≠ 0 := by simpa using hn
      omega
  have hb : chrBank a s < chrBanks s.cfg := by
    unfold chrBank
    split <;> exact Nat.mod_lt _ hpos
  unfold chrBanks at hb
  unfold chrIndex
  split at hb <;> simp_all <;> omega

/-- A PRG-ROM access is inside the image (20_memory.md R59). -/
theorem prgOffset_lt {s : State} (a : Word) (h : 1 ≤ s.cfg.prgBanks.val) : prgOffset a s < s.cfg.prgBanks.val * 16384 := by
  have hb : prgBank a s < s.cfg.prgBanks.val := by
    unfold prgBank prgLowBank prgHighBank
    repeat' split
    all_goals first | exact Nat.mod_lt _ h | omega
  unfold prgOffset
  omega

theorem getLsbD_seven (m : Byte) : m.getLsbD 7 = decide (128 ≤ m.toNat) := by
  have := m.isLt
  rw [BitVec.getLsbD, Nat.testBit_eq_decide_div_mod_eq]
  apply decide_eq_decide.mpr
  omega

theorem getLsbD_zero (m : Byte) : m.getLsbD 0 = decide (m.toNat % 2 = 1) := by
  rw [BitVec.getLsbD, Nat.testBit_eq_decide_div_mod_eq]
  apply decide_eq_decide.mpr
  omega

/-- `setZN` (00_scope.md R10). -/
theorem setZN_eq (f : Flags) (v : Byte) : f.setZN v = withZN f v := by
  have hz : (v == 0) = decide (v.toNat = 0) := by
    rw [Bool.eq_iff_iff]
    simp [BitVec.toNat_eq]
  rw [Flags.setZN, withZN, hz, getLsbD_seven]

/-- The status byte (10_state.md R20). -/
theorem pack_eq (f : Flags) (b : Bool) : f.pack b = statusByte f b := by
  rcases f with ⟨n, v, b', d, i, z, c⟩
  cases n <;> cases v <;> cases b' <;> cases d <;> cases i <;> cases z <;> cases c <;> cases b <;> decide

end Sys2Proof.Machine
end

