-- ==== Sys2Proof/Laws/Timing.lean ====
section
/-! SUPPORT. What the passing of time changes: the picture unit's position, its pending budget, the vblank bit and a pending NMI;
`elapse` also CYC. Nothing else. -/
namespace Sys2Proof.Machine

/-- `t` is `s` but for what time changes. -/
def SameButTime (s t : State) : Prop :=
  t = { s with
    cyc := t.cyc
    nmiPending := t.nmiPending
    ppu :=
      { s.ppu with
        scanline := t.ppu.scanline
        cycle := t.ppu.cycle
        frame := t.ppu.frame
        pending := t.ppu.pending
        vblank := t.ppu.vblank } }

theorem SameButTime.refl (s : State) : SameButTime s s := rfl

theorem SameButTime.trans {s t u : State} (h : SameButTime s t) (h' : SameButTime t u) : SameButTime s u := by
  unfold SameButTime at *
  rw [h'] at *
  rw [h]

theorem tick_sameButTime (s : State) : SameButTime s (tick s) := by
  unfold SameButTime tick vblEvents advanceDot
  split <;> split <;> (try split) <;> (try split) <;> rfl

theorem drain_sameButTime (n : Nat) (s : State) : SameButTime s (drain n s) := by
  induction n generalizing s with
  | zero => exact .refl s
  | succ k ih =>
    refine .trans (tick_sameButTime s) (.trans ?_ (ih _))
    rfl

theorem catchUp_sameButTime (n : Nat) (s : State) : SameButTime s (catchUp n s) :=
  .trans (t := s.setPpu { s.ppu with pending := s.ppu.pending + n }) rfl (drain_sameButTime _ _)

theorem elapse_sameButTime (c : Nat) (s : State) : SameButTime s (elapse c s) :=
  .trans (t := s.setCyc (s.cyc + c)) rfl (catchUp_sameButTime _ _)

@[simp] theorem tick_cyc (s : State) : (tick s).cyc = s.cyc := by
  unfold tick vblEvents
  split <;> [skip; split] <;> rfl

@[simp] theorem tick_pending (s : State) : (tick s).ppu.pending = s.ppu.pending := by
  unfold tick vblEvents advanceDot
  split <;> split <;> (try split) <;> (try split) <;> rfl

@[simp] theorem drain_cyc (n : Nat) (s : State) : (drain n s).cyc = s.cyc := by
  induction n generalizing s with
  | zero => rfl
  | succ k ih => simp [drain, ih]

/-- The catch-up's budget is all consumed. -/
theorem drain_pending (n : Nat) (s : State) : (drain n s).ppu.pending = s.ppu.pending - n := by
  induction n generalizing s with
  | zero => rfl
  | succ k ih =>
    simp only [drain, ih, State.setPpu_ppu, tick_pending]
    omega

@[simp] theorem elapse_pending (c : Nat) (s : State) : (elapse c s).ppu.pending = 0 := by
  simp [elapse, catchUp, drain_pending]

@[simp] theorem elapse_cyc (c : Nat) (s : State) : (elapse c s).cyc = s.cyc + c := by
  simp [elapse, catchUp]

section
variable (c : Nat) (s : State)
@[simp] theorem elapse_cfg : (elapse c s).cfg = s.cfg := by rw [elapse_sameButTime c s]
@[simp] theorem elapse_a : (elapse c s).a = s.a := by rw [elapse_sameButTime c s]
@[simp] theorem elapse_x : (elapse c s).x = s.x := by rw [elapse_sameButTime c s]
@[simp] theorem elapse_y : (elapse c s).y = s.y := by rw [elapse_sameButTime c s]
@[simp] theorem elapse_sp : (elapse c s).sp = s.sp := by rw [elapse_sameButTime c s]
@[simp] theorem elapse_pc : (elapse c s).pc = s.pc := by rw [elapse_sameButTime c s]
@[simp] theorem elapse_flags : (elapse c s).flags = s.flags := by rw [elapse_sameButTime c s]
@[simp] theorem elapse_fault : (elapse c s).fault = s.fault := by rw [elapse_sameButTime c s]
@[simp] theorem elapse_ram : (elapse c s).ram = s.ram := by rw [elapse_sameButTime c s]
@[simp] theorem elapse_prgRam : (elapse c s).prgRam = s.prgRam := by rw [elapse_sameButTime c s]
@[simp] theorem elapse_chrRam : (elapse c s).chrRam = s.chrRam := by rw [elapse_sameButTime c s]
@[simp] theorem elapse_map : (elapse c s).map = s.map := by rw [elapse_sameButTime c s]
@[simp] theorem elapse_spriteDraws : (elapse c s).spriteDraws = s.spriteDraws := by rw [elapse_sameButTime c s]
@[simp] theorem elapse_mirroring : (elapse c s).ppu.mirroring = s.ppu.mirroring := by rw [elapse_sameButTime c s]
@[simp] theorem elapse_latch : (elapse c s).ppu.latch = s.ppu.latch := by rw [elapse_sameButTime c s]
@[simp] theorem elapse_ctrl : (elapse c s).ppu.ctrl = s.ppu.ctrl := by rw [elapse_sameButTime c s]
@[simp] theorem elapse_mask : (elapse c s).ppu.mask = s.ppu.mask := by rw [elapse_sameButTime c s]
@[simp] theorem elapse_v : (elapse c s).ppu.v = s.ppu.v := by rw [elapse_sameButTime c s]
@[simp] theorem elapse_t : (elapse c s).ppu.t = s.ppu.t := by rw [elapse_sameButTime c s]
@[simp] theorem elapse_fineX : (elapse c s).ppu.x = s.ppu.x := by rw [elapse_sameButTime c s]
@[simp] theorem elapse_w : (elapse c s).ppu.w = s.ppu.w := by rw [elapse_sameButTime c s]
@[simp] theorem elapse_readbuf : (elapse c s).ppu.readbuf = s.ppu.readbuf := by rw [elapse_sameButTime c s]
@[simp] theorem elapse_oamaddr : (elapse c s).ppu.oamaddr = s.ppu.oamaddr := by rw [elapse_sameButTime c s]
@[simp] theorem elapse_oam : (elapse c s).ppu.oam = s.ppu.oam := by rw [elapse_sameButTime c s]
@[simp] theorem elapse_ciram : (elapse c s).ppu.ciram = s.ppu.ciram := by rw [elapse_sameButTime c s]
@[simp] theorem elapse_pal : (elapse c s).ppu.pal = s.ppu.pal := by rw [elapse_sameButTime c s]
end

/-- One tick keeps the position in range. -/
theorem tick_dotInRange {s : State} (h : s.ppu.scanline ≤ 261 ∧ s.ppu.cycle ≤ 340) :
    (tick s).ppu.scanline ≤ 261 ∧ (tick s).ppu.cycle ≤ 340 := by
  have hd : (advanceDot s.ppu).scanline ≤ 261 ∧ (advanceDot s.ppu).cycle ≤ 340 := by
    unfold advanceDot
    split <;> [split; skip] <;> simp <;> omega
  unfold tick vblEvents
  split <;> [skip; split] <;> exact hd

theorem drain_dotInRange {n : Nat} {s : State} (h : s.ppu.scanline ≤ 261 ∧ s.ppu.cycle ≤ 340) :
    (drain n s).ppu.scanline ≤ 261 ∧ (drain n s).ppu.cycle ≤ 340 := by
  induction n generalizing s with
  | zero => exact h
  | succ k ih => exact ih (s := (tick s).setPpu { (tick s).ppu with pending := (tick s).ppu.pending - 1 }) (tick_dotInRange h)

/-- The position stays in range: 0 to 261 and 0 to 340 (10_state.md R31). -/
theorem elapse_dotInRange {c : Nat} {s : State} (h : s.ppu.scanline ≤ 261 ∧ s.ppu.cycle ≤ 340) :
    (elapse c s).ppu.scanline ≤ 261 ∧ (elapse c s).ppu.cycle ≤ 340 := drain_dotInRange h

theorem tick_nmiPending {s : State} (h : s.cfg.params.nmiModel = .none) : (tick s).nmiPending = s.nmiPending := by
  unfold tick vblEvents
  split <;> [skip; split] <;> simp [h]

theorem drain_nmiPending {n : Nat} {s : State} (h : s.cfg.params.nmiModel = .none) :
    (drain n s).nmiPending = s.nmiPending := by
  induction n generalizing s with
  | zero => rfl
  | succ k ih =>
    have hc : (tick s).cfg = s.cfg := by rw [tick_sameButTime s]
    rw [drain, ih (by simpa [hc] using h)]
    simpa using tick_nmiPending h

/-- Time makes no NMI pending when the model has none (60_exceptions.md R172). -/
theorem elapse_nmiPending {c : Nat} {s : State} (h : s.cfg.params.nmiModel = .none) :
    (elapse c s).nmiPending = s.nmiPending := by
  unfold elapse catchUp
  rw [drain_nmiPending] <;> simp [h]

end Sys2Proof.Machine
end

