-- ==== Sys2Proof/Laws/Ops.lean ====
section
/-! SUPPORT. What each shared operation can do, once: a device access changes only its device, and each instruction form ends in
one of the named next states. -/
namespace Sys2Proof.Machine

@[simp] theorem Access.run_ok {α : Type} (v : α) (s : State) (f : α → State → Result) : (Access.ok v s).run f = f v s := rfl

@[simp] theorem Access.run_raise {α : Type} (k : ErrorKind) (s : State) (f : α → State → Result) :
    (Access.raise k s).run f = takeFault k s := rfl

@[simp] theorem Access.andThen_ok {α β : Type} (v : α) (s : State) (f : α → State → Access β) :
    (Access.ok v s).andThen f = f v s := rfl

@[simp] theorem Access.andThen_raise {α β : Type} (k : ErrorKind) (s : State) (f : α → State → Access β) :
    (Access.raise k s).andThen f = .raise k s := rfl

/-! Device accesses -/

/-- `t` is `s` but for what a read of a picture-unit register can change (20_memory.md Table R54): the latch, vblank, the write
toggle, the read buffer, the address `v`, and the count of oracle draws. -/
def SameButReads (s t : State) : Prop :=
  t = { s with
    spriteDraws := t.spriteDraws
    ppu :=
      { s.ppu with
        latch := t.ppu.latch
        vblank := t.ppu.vblank
        w := t.ppu.w
        readbuf := t.ppu.readbuf
        v := t.ppu.v } }

theorem SameButReads.refl (s : State) : SameButReads s s := rfl

theorem SameButReads.trans {s t u : State} (h : SameButReads s t) (h' : SameButReads t u) : SameButReads s u := by
  unfold SameButReads at *
  rw [h'] at *
  rw [h]

theorem ppuRead_sameButReads (r : PpuReg) (s : State) : SameButReads s (ppuRead r s).2 := by
  cases r <;> try rfl
  show SameButReads s (dataRead s).2
  dsimp only [dataRead]
  split <;> rfl

/-- A bus read that answers changes only what a register read can change. -/
theorem busRead_sameButReads {a : Word} {s t : State} {v : Byte} (h : busRead a s = .ok v t) : SameButReads s t := by
  rcases busRead_cases (a := a) (s := s) with ⟨k, _, hb⟩ | ⟨_, u, hb⟩ | ⟨_, r, _, hb⟩ <;> rw [hb] at h
  · cases h
  · cases h; rfl
  · cases h; exact ppuRead_sameButReads r s

/-- A bus read that fails changes nothing and reports the access's error (20_memory.md R50 to R53). -/
theorem busRead_raise {a : Word} {s t : State} {k : ErrorKind} (h : busRead a s = .raise k t) :
    t = s ∧ accessFault a s = some k := by
  rcases busRead_cases (a := a) (s := s) with ⟨j, hk, hb⟩ | ⟨_, u, hb⟩ | ⟨_, r, _, hb⟩ <;> rw [hb] at h
  · cases h; exact ⟨rfl, hk⟩
  · cases h
  · cases h

theorem SameButReads.accessFault {s t : State} (h : SameButReads s t) (a : Word) : accessFault a t = accessFault a s := by
  rw [h]; rfl

/-- A bus write that fails changes nothing and reports the access's error. -/
theorem busWrite_raise {a : Word} {s t : State} {v : Byte} {k : ErrorKind} (h : busWrite a v s = .raise k t) :
    t = s ∧ accessFault a s = some k := by
  unfold busWrite at h
  cases hk : Machine.accessFault a s with
  | some j => rw [hk] at h; cases h; exact ⟨rfl, rfl⟩
  | none => rw [hk] at h; cases hr : resolve a <;> simp_all [Machine.accessFault]

/-- `t` is `s` but for the devices and memories a bus write can change. -/
def SameButWrites (s t : State) : Prop :=
  t = { s with
    ram := t.ram, prgRam := t.prgRam, chrRam := t.chrRam, map := t.map, nmiPending := t.nmiPending
    ppu :=
      { t.ppu with
        scanline := s.ppu.scanline
        cycle := s.ppu.cycle
        frame := s.ppu.frame
        pending := s.ppu.pending
        vblank := s.ppu.vblank
        readbuf := s.ppu.readbuf } }

theorem mapCommit_sameButWrites (r : MapReg) (val : BitVec 5) (s : State) : SameButWrites s (mapCommit r val s) := by
  cases r <;> rfl

theorem mapWrite_sameButWrites (a : Word) (v : Byte) (s : State) : SameButWrites s (mapWrite a v s) := by
  unfold mapWrite
  split
  · rfl
  · split
    · show SameButWrites s ((mapCommit _ _ s).setMap _)
      cases mapTarget a <;> rfl
    · rfl

theorem ppuMemWrite_sameButWrites (a : BitVec 14) (v : Byte) (s : State) : SameButWrites s (ppuMemWrite a v s) := by
  unfold ppuMemWrite chrWrite
  split <;> [split; skip; skip] <;> rfl

theorem SameButWrites.trans {s t u : State} (h : SameButWrites s t) (h' : SameButWrites t u) : SameButWrites s u := by
  unfold SameButWrites at *
  rw [h'] at *
  rw [h]

theorem ppuWrite_sameButWrites (r : PpuReg) (v : Byte) (s : State) : SameButWrites s (ppuWrite r v s) := by
  cases r
  case data =>
    exact .trans (.trans (t := s.setPpu { s.ppu with latch := v }) rfl (ppuMemWrite_sameButWrites _ _ _)) rfl
  case scroll => show SameButWrites s (scrollWrite v s); dsimp only [scrollWrite]; split <;> rfl
  case addr => show SameButWrites s (addrWrite v s); dsimp only [addrWrite]; split <;> rfl
  all_goals rfl

/-- A bus write that answers changes only memories and devices: no CPU register, no flag, no time, no configuration. -/
theorem busWrite_sameButWrites {a : Word} {v : Byte} {s t : State} (h : busWrite a v s = .ok () t) : SameButWrites s t := by
  unfold busWrite at h
  cases hk : Machine.accessFault a s with
  | some j => rw [hk] at h; cases h
  | none =>
    rw [hk] at h
    cases hr : resolve a with
    | ram i => simp only [hr] at h; cases h; rfl
    | ppu r => simp only [hr] at h; cases h; exact ppuWrite_sameButWrites r v s
    | prgRam i => simp only [hr] at h; cases h; rfl
    | prgRom => simp only [hr] at h; cases h; exact mapWrite_sameButWrites a v s
    | apuIo | testRegion | cartUnused => simp only [hr] at h; cases h

/-! The stack -/

section
variable (v : Byte) (s : State)
@[simp] theorem push_ram : (push v s).ram = s.ram.write (stackIndex s.sp) v := rfl
@[simp] theorem push_sp : (push v s).sp = s.sp - 1 := rfl
@[simp] theorem push_flags : (push v s).flags = s.flags := rfl
@[simp] theorem push_pc : (push v s).pc = s.pc := rfl
@[simp] theorem push_a : (push v s).a = s.a := rfl
@[simp] theorem push_x : (push v s).x = s.x := rfl
@[simp] theorem push_y : (push v s).y = s.y := rfl
@[simp] theorem push_cyc : (push v s).cyc = s.cyc := rfl
@[simp] theorem push_nmiPending : (push v s).nmiPending = s.nmiPending := rfl
@[simp] theorem push_fault : (push v s).fault = s.fault := rfl
@[simp] theorem push_prgRam : (push v s).prgRam = s.prgRam := rfl
@[simp] theorem push_chrRam : (push v s).chrRam = s.chrRam := rfl
@[simp] theorem push_spriteDraws : (push v s).spriteDraws = s.spriteDraws := rfl
@[simp] theorem push_cfg : (push v s).cfg = s.cfg := rfl
@[simp] theorem push_map : (push v s).map = s.map := rfl
@[simp] theorem push_ppu : (push v s).ppu = s.ppu := rfl
@[simp] theorem pop_value : (pop s).1 = s.ram.read (stackIndex (s.sp + 1)) := rfl
@[simp] theorem pop_state : (pop s).2 = s.setSp (s.sp + 1) := rfl
end

/-- A vector is read from PRG-ROM through the current banking, which a push does not change. -/
@[simp] theorem readVector_push (a : Word) (v : Byte) (s : State) : readVector a (push v s) = readVector a s := rfl

theorem stackIndex_lt (p : Byte) : stackIndex p < 2048 := by
  have := p.isLt
  unfold stackIndex
  omega

theorem stackIndex_inj {p q : Byte} : stackIndex p = stackIndex q ↔ p = q := by
  constructor
  · intro h
    apply BitVec.eq_of_toNat_eq
    unfold stackIndex at h
    omega
  · rintro rfl; rfl

/-! The instruction forms -/

/-- A read operand answers its value and the state after its read, or the read's error. -/
theorem load_cases (o : Src) (s : State) :
    (∃ v t, load o s = .ok v t ∧ SameButReads s t) ∨
    (∃ l k, o = .mem l ∧ accessFault (ea l s) s = some k ∧ load o s = .raise k s) := by
  cases o with
  | imm v => exact .inl ⟨v, s, rfl, rfl⟩
  | mem l =>
    show (∃ v t, busRead (ea l s) s = .ok v t ∧ _) ∨ _
    cases h : busRead (ea l s) s with
    | ok v t => exact .inl ⟨v, t, rfl, busRead_sameButReads h⟩
    | raise k t =>
      obtain ⟨rfl, hk⟩ := busRead_raise h
      exact .inr ⟨l, k, rfl, hk, h⟩

/-- A reading instruction completes with its effect, or takes its read's fault with nothing else changed. -/
theorem readInstr_cases (o : Src) (f : Byte → State → State) (s : State) :
    (∃ v t, load o s = .ok v t ∧ SameButReads s t ∧
      readInstr o f s = .next (elapse (readCycles o s) ((f v t).setPc (nextPc o.mode s)))) ∨
    (∃ l k, o = .mem l ∧ accessFault (ea l s) s = some k ∧
      readInstr o f s = .next (s.setFault (some { kind := k, pc := s.pc }))) := by
  rcases load_cases o s with ⟨v, t, h, ht⟩ | ⟨l, k, ho, hk, h⟩
  · exact .inl ⟨v, t, h, ht, by simp [readInstr, h, complete]⟩
  · exact .inr ⟨l, k, ho, hk, by simp [readInstr, h, takeFault]⟩

/-- A store completes with its write, or takes its write's fault with nothing else changed. -/
theorem storeInstr_cases (l : Loc) (v : Byte) (s : State) :
    (∃ t, busWrite (ea l s) v s = .ok () t ∧ SameButWrites s t ∧
      storeInstr l v s = .next (elapse (Loc.storeCycles l) (t.setPc (nextPc l.mode s)))) ∨
    (∃ k, accessFault (ea l s) s = some k ∧ storeInstr l v s = .next (s.setFault (some { kind := k, pc := s.pc }))) := by
  cases h : busWrite (ea l s) v s with
  | ok u t => exact .inl ⟨t, rfl, busWrite_sameButWrites h, by simp [storeInstr, h, complete]⟩
  | raise k t =>
    obtain ⟨rfl, hk⟩ := busWrite_raise h
    exact .inr ⟨k, hk, by simp [storeInstr, h, takeFault]⟩

/-- A read-modify-write completes with its read and its write, or takes its read's fault with nothing else changed. A write of
an address that has just been read cannot fail. -/
theorem rmwInstr_cases (l : RmwLoc) (r : Byte → Byte) (g : Flags → Byte → Flags) (s : State) :
    (∃ v t u, busRead (ea l.loc s) s = .ok v t ∧ SameButReads s t ∧ busWrite (ea l.loc s) (r v) t = .ok () u ∧
      SameButWrites t u ∧
      rmwInstr l r g s =
        .next (elapse (RmwLoc.rmwCycles l) ((u.setFlags (g u.flags v)).setPc (nextPc l.loc.mode s)))) ∨
    (∃ k, accessFault (ea l.loc s) s = some k ∧
      rmwInstr l r g s = .next (s.setFault (some { kind := k, pc := s.pc }))) := by
  cases h : busRead (ea l.loc s) s with
  | raise k t =>
    obtain ⟨rfl, hk⟩ := busRead_raise h
    exact .inr ⟨k, hk, by simp [rmwInstr, h, takeFault]⟩
  | ok v t =>
    have ht := busRead_sameButReads h
    have hf : accessFault (ea l.loc s) t = none := by
      rw [ht.accessFault]; exact busRead_ok_iff.mp ⟨v, t, h⟩
    obtain ⟨u, hu⟩ := busWrite_ok_iff (v := r v).mpr hf
    exact .inl ⟨v, t, u, rfl, ht, hu, busWrite_sameButWrites hu, by simp [rmwInstr, h, hu, complete]⟩

/-- A branch completes in one of two ways. -/
theorem branchInstr_cases (cond : Bool) (off : Byte) (s : State) :
    (cond = true ∧ branchInstr cond off s =
      .next (elapse (3 + (branchCrosses s.cfg.params.branchPageRule (s.pc + 2) (branchTarget off s)).toNat)
        (s.setPc (branchTarget off s)))) ∨
    (cond = false ∧ branchInstr cond off s = .next (elapse 2 (s.setPc (s.pc + 2)))) := by
  cases cond
  · exact .inr ⟨rfl, rfl⟩
  · exact .inl ⟨rfl, rfl⟩

/-- The pointer reads of JMP indirect answer the target, or the first error. -/
theorem readIndirect_cases (q : Word) (s : State) :
    (∃ w t, readIndirect q s = .ok w t ∧ SameButReads s t) ∨
    (∃ k t, readIndirect q s = .raise k t ∧ SameButReads s t) := by
  unfold readIndirect
  cases h : busRead q s with
  | raise k t => obtain ⟨rfl, _⟩ := busRead_raise h; exact .inr ⟨k, t, rfl, rfl⟩
  | ok lo t =>
    have ht := busRead_sameButReads h
    simp only [Access.andThen_ok]
    cases h' : busRead (mkWord (hiByte q) (loByte q + 1)) t with
    | raise k u => obtain ⟨rfl, _⟩ := busRead_raise h'; exact .inr ⟨k, u, rfl, ht⟩
    | ok hi u => exact .inl ⟨_, u, rfl, ht.trans (busRead_sameButReads h')⟩

end Sys2Proof.Machine
end

