-- ==== Sys2Proof/Laws/Exec.lean ====
section
/-! SUPPORT. What one instruction and one step can do, said once: the two ways an instruction ends, and the induction by which a
property of states that every operation keeps is kept by every instruction and every step. -/
namespace Sys2Proof.Machine

/-- What makes an instruction take a fault of kind `k`: it has no handler, it is a refused decimal ADC or SBC, or an access faults. -/
inductive FaultReason (i : Instr) (s : State) : ErrorKind → Prop where
  | unsupported (op : Byte) (hi : i = .unsupported op) : FaultReason i s (.unsupportedOpcode op s.pc)
  | decimal (o : Src) (hi : i = .adc o ∨ i = .sbc o) (hd : decimalTrap s = true) : FaultReason i s (.decimalUnsupported s.pc)
  | access (a : Word) (k : ErrorKind) (ha : accessFault a s = some k) : FaultReason i s k

/-- What an instruction leaves alone before its cycles pass: the configuration, FAULT, CYC and the picture unit's position. -/
structure SameClock (s u : State) : Prop where
  cfg : u.cfg = s.cfg
  fault : u.fault = s.fault
  cyc : u.cyc = s.cyc
  scanline : u.ppu.scanline = s.ppu.scanline
  cycle : u.ppu.cycle = s.ppu.cycle
  frame : u.ppu.frame = s.ppu.frame
  pending : u.ppu.pending = s.ppu.pending

/-- The two ways an instruction ends: its cycles pass over a state with the same clock, or it takes a fault over a state that differs
only by register reads already made. -/
inductive Ends (i : Instr) (s : State) : Prop where
  | completes (c : Nat) (u : State) (lo : 2 ≤ c) (hi : c ≤ 7) (same : SameClock s u) (eq : exec i s = .next (elapse c u)) : Ends i s
  | faults (k : ErrorKind) (t : State) (same : SameButReads s t) (why : FaultReason i s k)
      (eq : exec i s = .next (t.setFault (some { kind := k, pc := s.pc }))) : Ends i s

theorem SameButReads.sameClock {s t : State} (h : SameButReads s t) : SameClock s t := by
  constructor <;> rw [h]

theorem SameButWrites.sameClock {s t : State} (h : SameButWrites s t) : SameClock s t := by
  constructor <;> rw [h]

theorem SameClock.trans {s t u : State} (h : SameClock s t) (h' : SameClock t u) : SameClock s u where
  cfg := h'.cfg.trans h.cfg
  fault := h'.fault.trans h.fault
  cyc := h'.cyc.trans h.cyc
  scanline := h'.scanline.trans h.scanline
  cycle := h'.cycle.trans h.cycle
  frame := h'.frame.trans h.frame
  pending := h'.pending.trans h.pending

section
variable {i : Instr} {s : State}

theorem SameClock.setPc {pc : Word} {u : State} (h : SameClock s u) : SameClock s (u.setPc pc) :=
  ⟨h.1, h.2, h.3, h.4, h.5, h.6, h.7⟩

theorem SameClock.setFlags {f : Flags} {u : State} (h : SameClock s u) : SameClock s (u.setFlags f) :=
  ⟨h.1, h.2, h.3, h.4, h.5, h.6, h.7⟩

theorem Ends.of_complete {pc : Word} {c : Nat} {u : State} (he : exec i s = complete pc c u) (lo : 2 ≤ c) (hi : c ≤ 7)
    (h : SameClock s u) : Ends i s :=
  .completes c (u.setPc pc) lo hi h.setPc he

theorem Ends.of_read {o : Src} {f : Byte → State → State} (he : exec i s = readInstr o f s) (hf : ∀ v t, SameClock t (f v t)) :
    Ends i s := by
  rcases readInstr_cases o f s with ⟨v, t, _, ht, h⟩ | ⟨l, k, _, hk, h⟩ <;> rw [h] at he
  · refine .completes _ _ ?_ ?_ (ht.sameClock.trans (hf v t)).setPc he
    · cases o with
      | imm v => exact Nat.le_refl 2
      | mem l => cases l <;> simp only [readCycles, Loc.readBase] <;> omega
    · cases o with
      | imm v => exact Nat.le_of_ble_eq_true rfl
      | mem l =>
        have := Bool.toNat_le (crossed l s)
        cases l <;> simp only [readCycles, Loc.readBase] <;> omega
  · exact .faults k s rfl (.access _ k hk) he

theorem Ends.of_store {l : Loc} {v : Byte} (he : exec i s = storeInstr l v s) : Ends i s := by
  rcases storeInstr_cases l v s with ⟨t, _, ht, h⟩ | ⟨k, hk, h⟩ <;> rw [h] at he
  · refine .completes _ _ ?_ ?_ ht.sameClock.setPc he <;> cases l <;> exact Nat.le_of_ble_eq_true rfl
  · exact .faults k s rfl (.access _ k hk) he

theorem Ends.of_rmw {l : RmwLoc} {r : Byte → Byte} {g : Flags → Byte → Flags} (he : exec i s = rmwInstr l r g s) : Ends i s := by
  rcases rmwInstr_cases l r g s with ⟨v, t, u, _, ht, _, hu, h⟩ | ⟨k, hk, h⟩ <;> rw [h] at he
  · refine .completes _ _ ?_ ?_ (ht.sameClock.trans hu.sameClock).setFlags.setPc he <;> cases l <;>
      exact Nat.le_of_ble_eq_true rfl
  · exact .faults k s rfl (.access _ k hk) he

theorem Ends.of_branch {cond : Bool} {off : Byte} (he : exec i s = branchInstr cond off s) : Ends i s := by
  have same (pc : Word) : SameClock s (s.setPc pc) := ⟨rfl, rfl, rfl, rfl, rfl, rfl, rfl⟩
  rcases branchInstr_cases cond off s with ⟨_, h⟩ | ⟨_, h⟩ <;> rw [h] at he
  · have := Bool.toNat_le (branchCrosses s.cfg.params.branchPageRule (s.pc + 2) (branchTarget off s))
    exact .completes (3 + _) _ (by omega) (by omega) (same _) he
  · exact .completes 2 _ (by decide) (by decide) (same _) he

theorem Ends.of_shift {o : ShiftDst} {r : Byte → Byte} {g : Flags → Byte → Flags} (he : exec i s = shiftInstr o r g s) :
    Ends i s := by
  cases o with
  | acc =>
    have he : exec i s = complete (nextPc .acc s) 2 ((s.setA (r s.a)).setFlags (g s.flags s.a)) := he
    exact .of_complete he (by decide) (by decide) ⟨rfl, rfl, rfl, rfl, rfl, rfl, rfl⟩
  | mem l => exact .of_rmw he

/-- ADC and SBC: the decimal trap, then a reading instruction. -/
theorem Ends.of_decimal {o : Src} {f : Byte → State → State} (hi : i = .adc o ∨ i = .sbc o)
    (he : exec i s = if decimalTrap s then takeFault (.decimalUnsupported s.pc) s else readInstr o f s)
    (hf : ∀ v t, SameClock t (f v t)) : Ends i s := by
  by_cases hd : decimalTrap s = true
  · exact .faults _ s rfl (.decimal o hi hd) (by rw [he, if_pos hd]; rfl)
  · exact .of_read (by rw [he, if_neg hd]) hf

end

theorem jmp_ends (t : JmpTarget) (s : State) : Ends (.jmp t) s := by
  cases t with
  | abs a => exact .of_complete (c := 3) rfl (by decide) (by decide) ⟨rfl, rfl, rfl, rfl, rfl, rfl, rfl⟩
  | ind q =>
    have he : exec (.jmp (.ind q)) s = (readIndirect q s).run fun w t => complete w 5 t := rfl
    unfold readIndirect at he
    cases h : busRead q s with
    | raise k t =>
      obtain ⟨rfl, hk⟩ := busRead_raise h
      rw [h] at he
      exact .faults k t rfl (.access q k hk) he
    | ok lo t =>
      have ht := busRead_sameButReads h
      rw [h] at he
      simp only [Access.andThen_ok] at he
      cases h' : busRead (mkWord (hiByte q) (loByte q + 1)) t with
      | raise k u =>
        obtain ⟨rfl, hk⟩ := busRead_raise h'
        rw [ht.accessFault] at hk
        rw [h'] at he
        have hp : u.pc = s.pc := by rw [ht]
        exact .faults k u ht (.access _ k hk) (by rw [he, ← hp]; rfl)
      | ok hi u =>
        rw [h'] at he
        exact .of_complete he (by decide) (by decide) (ht.trans (busRead_sameButReads h')).sameClock

theorem enterInterrupt_sameClock (ret : Word) (b : Bool) (vector : Word) (s : State) :
    SameClock s (enterInterrupt ret b vector s) := by
  constructor <;> simp [enterInterrupt, push16]

theorem leaveInterrupt_sameClock (s : State) : SameClock s (leaveInterrupt s) := by
  constructor <;> simp [leaveInterrupt, pop16]

/-- Every instruction ends in one of the two ways. -/
theorem exec_ends (i : Instr) (s : State) : Ends i s := by
  cases i with
  | lda o => exact .of_read rfl (fun _ _ => ⟨rfl, rfl, rfl, rfl, rfl, rfl, rfl⟩)
  | ldx o => exact .of_read rfl (fun _ _ => ⟨rfl, rfl, rfl, rfl, rfl, rfl, rfl⟩)
  | ldy o => exact .of_read rfl (fun _ _ => ⟨rfl, rfl, rfl, rfl, rfl, rfl, rfl⟩)
  | and o => exact .of_read rfl (fun _ _ => ⟨rfl, rfl, rfl, rfl, rfl, rfl, rfl⟩)
  | ora o => exact .of_read rfl (fun _ _ => ⟨rfl, rfl, rfl, rfl, rfl, rfl, rfl⟩)
  | eor o => exact .of_read rfl (fun _ _ => ⟨rfl, rfl, rfl, rfl, rfl, rfl, rfl⟩)
  | cmp o => exact .of_read rfl (fun _ _ => ⟨rfl, rfl, rfl, rfl, rfl, rfl, rfl⟩)
  | cpx o => exact .of_read rfl (fun _ _ => ⟨rfl, rfl, rfl, rfl, rfl, rfl, rfl⟩)
  | cpy o => exact .of_read rfl (fun _ _ => ⟨rfl, rfl, rfl, rfl, rfl, rfl, rfl⟩)
  | bit l => exact .of_read (o := .mem l) rfl (fun _ _ => ⟨rfl, rfl, rfl, rfl, rfl, rfl, rfl⟩)
  | adc o => exact .of_decimal (.inl rfl) rfl (fun _ _ => ⟨rfl, rfl, rfl, rfl, rfl, rfl, rfl⟩)
  | sbc o => exact .of_decimal (.inr rfl) rfl (fun _ _ => ⟨rfl, rfl, rfl, rfl, rfl, rfl, rfl⟩)
  | sta l => exact .of_store rfl
  | stx l => exact .of_store rfl
  | sty l => exact .of_store rfl
  | inc l => exact .of_rmw (l := l) (r := fun m => m + 1) (g := fun f m => f.setZN (m + 1)) rfl
  | dec l => exact .of_rmw (l := l) (r := fun m => m - 1) (g := fun f m => f.setZN (m - 1)) rfl
  | asl o => exact .of_shift (o := o) (r := aslResult) (g := Flags.asl) rfl
  | lsr o => exact .of_shift (o := o) (r := lsrResult) (g := Flags.lsr) rfl
  | rol o => exact .of_shift (o := o) (r := (rolResult s.flags.c)) (g := Flags.rol) rfl
  | ror o => exact .of_shift (o := o) (r := (rorResult s.flags.c)) (g := Flags.ror) rfl
  | bpl off => exact .of_branch rfl
  | bmi off => exact .of_branch rfl
  | bvc off => exact .of_branch rfl
  | bvs off => exact .of_branch rfl
  | bcc off => exact .of_branch rfl
  | bcs off => exact .of_branch rfl
  | bne off => exact .of_branch rfl
  | beq off => exact .of_branch rfl
  | jmp t => exact jmp_ends t s
  | tax => exact .of_complete rfl (by decide) (by decide) ⟨rfl, rfl, rfl, rfl, rfl, rfl, rfl⟩
  | tay => exact .of_complete rfl (by decide) (by decide) ⟨rfl, rfl, rfl, rfl, rfl, rfl, rfl⟩
  | txa => exact .of_complete rfl (by decide) (by decide) ⟨rfl, rfl, rfl, rfl, rfl, rfl, rfl⟩
  | tya => exact .of_complete rfl (by decide) (by decide) ⟨rfl, rfl, rfl, rfl, rfl, rfl, rfl⟩
  | tsx => exact .of_complete rfl (by decide) (by decide) ⟨rfl, rfl, rfl, rfl, rfl, rfl, rfl⟩
  | txs => exact .of_complete rfl (by decide) (by decide) ⟨rfl, rfl, rfl, rfl, rfl, rfl, rfl⟩
  | inx => exact .of_complete rfl (by decide) (by decide) ⟨rfl, rfl, rfl, rfl, rfl, rfl, rfl⟩
  | iny => exact .of_complete rfl (by decide) (by decide) ⟨rfl, rfl, rfl, rfl, rfl, rfl, rfl⟩
  | dex => exact .of_complete rfl (by decide) (by decide) ⟨rfl, rfl, rfl, rfl, rfl, rfl, rfl⟩
  | dey => exact .of_complete rfl (by decide) (by decide) ⟨rfl, rfl, rfl, rfl, rfl, rfl, rfl⟩
  | clc => exact .of_complete rfl (by decide) (by decide) ⟨rfl, rfl, rfl, rfl, rfl, rfl, rfl⟩
  | sec => exact .of_complete rfl (by decide) (by decide) ⟨rfl, rfl, rfl, rfl, rfl, rfl, rfl⟩
  | cli => exact .of_complete rfl (by decide) (by decide) ⟨rfl, rfl, rfl, rfl, rfl, rfl, rfl⟩
  | sei => exact .of_complete rfl (by decide) (by decide) ⟨rfl, rfl, rfl, rfl, rfl, rfl, rfl⟩
  | clv => exact .of_complete rfl (by decide) (by decide) ⟨rfl, rfl, rfl, rfl, rfl, rfl, rfl⟩
  | cld => exact .of_complete rfl (by decide) (by decide) ⟨rfl, rfl, rfl, rfl, rfl, rfl, rfl⟩
  | sed => exact .of_complete rfl (by decide) (by decide) ⟨rfl, rfl, rfl, rfl, rfl, rfl, rfl⟩
  | nop => exact .of_complete rfl (by decide) (by decide) ⟨rfl, rfl, rfl, rfl, rfl, rfl, rfl⟩
  | pha => exact .of_complete rfl (by decide) (by decide) ⟨rfl, rfl, rfl, rfl, rfl, rfl, rfl⟩
  | php => exact .of_complete rfl (by decide) (by decide) ⟨rfl, rfl, rfl, rfl, rfl, rfl, rfl⟩
  | pla => exact .of_complete rfl (by decide) (by decide) ⟨rfl, rfl, rfl, rfl, rfl, rfl, rfl⟩
  | plp => exact .of_complete rfl (by decide) (by decide) ⟨rfl, rfl, rfl, rfl, rfl, rfl, rfl⟩
  | jsr a => exact .of_complete rfl (by decide) (by decide) ⟨rfl, rfl, rfl, rfl, rfl, rfl, rfl⟩
  | rts => exact .of_complete rfl (by decide) (by decide) ⟨rfl, rfl, rfl, rfl, rfl, rfl, rfl⟩
  | brk => exact .completes 7 _ (by decide) (by decide) (enterInterrupt_sameClock (s.pc + 2) true brkVector s) rfl
  | rti => exact .completes 6 _ (by decide) (by decide) (leaveInterrupt_sameClock s) rfl
  | unsupported op => exact .faults _ s rfl (.unsupported op rfl) rfl

/-! The induction over operations -/

/-- A property of states that every operation of the machine keeps. -/
structure Kept (P : State → Prop) : Prop where
  regs : ∀ s a x y sp pc f, P s → P { s with a := a, x := x, y := y, sp := sp, pc := pc, flags := f }
  push : ∀ v s, P s → P (push v s)
  read : ∀ r s, P s → P (ppuRead r s).2
  write : ∀ a v s t, P s → busWrite a v s = .ok () t → P t
  time : ∀ c s, P s → P (elapse c s)
  fault : ∀ r s, P s → P (s.setFault r)

/-- If a result is a next state, the property holds in it. -/
def KeptBy (P : State → Prop) (r : Result) : Prop := ∀ t, r = .next t → P t

section
variable {P : State → Prop} (hP : Kept P) {s t : State}
include hP

theorem Kept.busRead {a : Word} {v : Byte} (h : P s) (hb : busRead a s = .ok v t) : P t := by
  rcases busRead_cases (a := a) (s := s) with ⟨k, _, he⟩ | ⟨_, u, he⟩ | ⟨_, r, _, he⟩ <;> rw [he] at hb <;> cases hb
  · exact h
  · exact hP.read r s h

theorem Kept.takeFault (k : ErrorKind) (h : P s) : KeptBy P (takeFault k s) := by
  rintro t ⟨⟩
  exact hP.fault _ s h

theorem Kept.complete (pc : Word) (c : Nat) (h : P s) : KeptBy P (complete pc c s) := by
  rintro t ⟨⟩
  exact hP.time c _ (hP.regs s s.a s.x s.y s.sp pc s.flags h)

theorem Kept.readInstr {o : Src} {f : Byte → State → State} (hf : ∀ v t, P t → P (f v t)) (h : P s) :
    KeptBy P (readInstr o f s) := by
  unfold Machine.readInstr load
  cases o with
  | imm v => exact hP.complete _ _ (hf v s h)
  | mem l =>
    show KeptBy P ((Machine.busRead (ea l s) s).run _)
    cases hb : Machine.busRead (ea l s) s with
    | ok v t => exact hP.complete _ _ (hf v t (hP.busRead h hb))
    | raise k t => obtain ⟨rfl, _⟩ := busRead_raise hb; exact hP.takeFault k h

theorem Kept.storeInstr {l : Loc} {v : Byte} (h : P s) : KeptBy P (storeInstr l v s) := by
  unfold Machine.storeInstr
  cases hb : busWrite (ea l s) v s with
  | ok u t => exact hP.complete _ _ (hP.write _ _ _ _ h hb)
  | raise k t => obtain ⟨rfl, _⟩ := busWrite_raise hb; exact hP.takeFault k h

theorem Kept.rmwInstr {l : RmwLoc} {r : Byte → Byte} {g : Flags → Byte → Flags} (h : P s) : KeptBy P (rmwInstr l r g s) := by
  dsimp only [Machine.rmwInstr]
  cases hb : Machine.busRead (ea l.loc s) s with
  | raise k t => obtain ⟨rfl, _⟩ := busRead_raise hb; exact hP.takeFault k h
  | ok v t =>
    have ht := hP.busRead h hb
    simp only [Access.run_ok]
    cases hw : busWrite (ea l.loc s) (r v) t with
    | raise k u => obtain ⟨rfl, _⟩ := busWrite_raise hw; exact hP.takeFault k ht
    | ok x u =>
      have hu := hP.write _ _ _ _ ht hw
      exact hP.complete _ _ (hP.regs u u.a u.x u.y u.sp u.pc _ hu)

theorem Kept.shiftInstr {o : ShiftDst} {r : Byte → Byte} {g : Flags → Byte → Flags} (h : P s) :
    KeptBy P (shiftInstr o r g s) := by
  cases o with
  | acc => exact hP.complete _ _ (hP.regs s (r s.a) s.x s.y s.sp s.pc (g s.flags s.a) h)
  | mem l => exact hP.rmwInstr h

theorem Kept.branchInstr {cond : Bool} {off : Byte} (h : P s) : KeptBy P (branchInstr cond off s) := by
  unfold Machine.branchInstr
  split <;> exact hP.complete _ _ h

theorem Kept.readIndirect {q : Word} (h : P s) : KeptBy P ((readIndirect q s).run fun w t => Machine.complete w 5 t) := by
  unfold Machine.readIndirect
  cases hb : Machine.busRead q s with
  | raise k t => obtain ⟨rfl, _⟩ := busRead_raise hb; exact hP.takeFault k h
  | ok lo t =>
    have ht := hP.busRead h hb
    simp only [Access.andThen_ok]
    cases hb' : Machine.busRead (mkWord (hiByte q) (loByte q + 1)) t with
    | raise k u => obtain ⟨rfl, _⟩ := busRead_raise hb'; exact hP.takeFault k ht
    | ok hi u => exact hP.complete _ _ (hP.busRead ht hb')

theorem Kept.push16 (w : Word) (h : P s) : P (push16 w s) := hP.push _ _ (hP.push _ _ h)

theorem Kept.enterInterrupt (ret : Word) (b : Bool) (vector : Word) (h : P s) : P (enterInterrupt ret b vector s) := by
  have hu := hP.push (s.flags.pack b) _ (hP.push16 ret h)
  generalize hg : Machine.push (s.flags.pack b) (Machine.push16 ret s) = u at hu
  have he : Machine.enterInterrupt ret b vector s =
      { u with pc := readVector vector u, flags := { u.flags with i := true } } := by rw [← hg]; rfl
  rw [he]
  exact hP.regs u u.a u.x u.y u.sp _ _ hu

/-- What every operation keeps, every instruction keeps. -/
theorem Kept.exec {i : Instr} (h : P s) : KeptBy P (exec i s) := by
  have regs := fun (a x y sp : Byte) (pc : Word) (f : Flags) => hP.regs s a x y sp pc f h
  cases i with
  | unsupported op => exact hP.takeFault _ h
  | lda o => exact hP.readInstr (fun v t ht => hP.regs t v t.x t.y t.sp t.pc _ ht) h
  | ldx o => exact hP.readInstr (fun v t ht => hP.regs t t.a v t.y t.sp t.pc _ ht) h
  | ldy o => exact hP.readInstr (fun v t ht => hP.regs t t.a t.x v t.sp t.pc _ ht) h
  | and o => exact hP.readInstr (fun v t ht => hP.regs t _ t.x t.y t.sp t.pc _ ht) h
  | ora o => exact hP.readInstr (fun v t ht => hP.regs t _ t.x t.y t.sp t.pc _ ht) h
  | eor o => exact hP.readInstr (fun v t ht => hP.regs t _ t.x t.y t.sp t.pc _ ht) h
  | cmp o => exact hP.readInstr (fun v t ht => hP.regs t t.a t.x t.y t.sp t.pc _ ht) h
  | cpx o => exact hP.readInstr (fun v t ht => hP.regs t t.a t.x t.y t.sp t.pc _ ht) h
  | cpy o => exact hP.readInstr (fun v t ht => hP.regs t t.a t.x t.y t.sp t.pc _ ht) h
  | bit l => exact hP.readInstr (o := .mem l) (fun v t ht => hP.regs t t.a t.x t.y t.sp t.pc _ ht) h
  | adc o =>
    show KeptBy P (execAdc o s)
    unfold execAdc
    split
    · exact hP.takeFault _ h
    · exact hP.readInstr (fun v t ht => hP.regs t _ t.x t.y t.sp t.pc _ ht) h
  | sbc o =>
    show KeptBy P (execSbc o s)
    unfold execSbc
    split
    · exact hP.takeFault _ h
    · exact hP.readInstr (fun v t ht => hP.regs t _ t.x t.y t.sp t.pc _ ht) h
  | sta l => exact hP.storeInstr h
  | stx l => exact hP.storeInstr h
  | sty l => exact hP.storeInstr h
  | inc l => exact hP.rmwInstr (l := l) (r := fun m => m + 1) (g := fun f m => f.setZN (m + 1)) h
  | dec l => exact hP.rmwInstr (l := l) (r := fun m => m - 1) (g := fun f m => f.setZN (m - 1)) h
  | asl o => exact hP.shiftInstr (o := o) (r := aslResult) (g := Flags.asl) h
  | lsr o => exact hP.shiftInstr (o := o) (r := lsrResult) (g := Flags.lsr) h
  | rol o => exact hP.shiftInstr (o := o) (r := (rolResult s.flags.c)) (g := Flags.rol) h
  | ror o => exact hP.shiftInstr (o := o) (r := (rorResult s.flags.c)) (g := Flags.ror) h
  | bpl off => exact hP.branchInstr h
  | bmi off => exact hP.branchInstr h
  | bvc off => exact hP.branchInstr h
  | bvs off => exact hP.branchInstr h
  | bcc off => exact hP.branchInstr h
  | bcs off => exact hP.branchInstr h
  | bne off => exact hP.branchInstr h
  | beq off => exact hP.branchInstr h
  | jmp t =>
    cases t with
    | abs a => exact hP.complete a 3 h
    | ind q => exact hP.readIndirect h
  | tax => exact hP.complete _ _ (regs s.a s.a s.y s.sp s.pc _)
  | tay => exact hP.complete _ _ (regs s.a s.x s.a s.sp s.pc _)
  | txa => exact hP.complete _ _ (regs s.x s.x s.y s.sp s.pc _)
  | tya => exact hP.complete _ _ (regs s.y s.x s.y s.sp s.pc _)
  | tsx => exact hP.complete _ _ (regs s.a s.sp s.y s.sp s.pc _)
  | txs => exact hP.complete _ _ (regs s.a s.x s.y s.x s.pc _)
  | inx => exact hP.complete _ _ (regs s.a (s.x + 1) s.y s.sp s.pc _)
  | iny => exact hP.complete _ _ (regs s.a s.x (s.y + 1) s.sp s.pc _)
  | dex => exact hP.complete _ _ (regs s.a (s.x - 1) s.y s.sp s.pc _)
  | dey => exact hP.complete _ _ (regs s.a s.x (s.y - 1) s.sp s.pc _)
  | clc => exact hP.complete _ _ (regs s.a s.x s.y s.sp s.pc _)
  | sec => exact hP.complete _ _ (regs s.a s.x s.y s.sp s.pc _)
  | cli => exact hP.complete _ _ (regs s.a s.x s.y s.sp s.pc _)
  | sei => exact hP.complete _ _ (regs s.a s.x s.y s.sp s.pc _)
  | clv => exact hP.complete _ _ (regs s.a s.x s.y s.sp s.pc _)
  | cld => exact hP.complete _ _ (regs s.a s.x s.y s.sp s.pc _)
  | sed => exact hP.complete _ _ (regs s.a s.x s.y s.sp s.pc _)
  | nop => exact hP.complete _ _ h
  | pha => exact hP.complete _ _ (hP.push _ _ h)
  | php => exact hP.complete _ _ (hP.push _ _ h)
  | pla => exact hP.complete _ _ (regs _ s.x s.y (s.sp + 1) s.pc _)
  | plp => exact hP.complete _ _ (regs s.a s.x s.y (s.sp + 1) s.pc _)
  | jsr a => exact hP.complete a 6 (hP.push16 _ h)
  | rts => exact hP.complete _ _ (regs s.a s.x s.y (s.sp + 1 + 1) s.pc s.flags)
  | brk => rintro t ⟨⟩; exact hP.time 7 _ (hP.enterInterrupt _ _ _ h)
  | rti => rintro t ⟨⟩; exact hP.time 6 _ (regs s.a s.x s.y (s.sp + 1 + 1 + 1) _ _)

/-- A fetch answers a state that the property holds in, whether it succeeds or fails. -/
theorem Kept.fetch (h : P s) : (∀ i t, fetch s = .ok i t → P t) ∧ ∀ k t, fetch s = .raise k t → P t := by
  have two (a : Word) (u : State) (hu : P u) :
      (∀ v t, Machine.busRead a u = .ok v t → P t) ∧ ∀ k t, Machine.busRead a u = .raise k t → P t :=
    ⟨fun v t hb => hP.busRead hu hb, fun k t hb => (by obtain ⟨rfl, _⟩ := busRead_raise hb; exact hu)⟩
  have next {α : Type} {β : Type} {r : Access α} {f : α → State → Access β} (hok : ∀ v t, r = .ok v t → P t)
      (hr : ∀ k t, r = .raise k t → P t)
      (hf : ∀ v t, P t → (∀ w u, f v t = .ok w u → P u) ∧ ∀ k u, f v t = .raise k u → P u) :
      (∀ w u, r.andThen f = .ok w u → P u) ∧ ∀ k u, r.andThen f = .raise k u → P u := by
    cases r with
    | ok v t => exact hf v t (hok v t rfl)
    | raise k t => exact ⟨fun _ _ e => (by cases e), fun _ _ e => (by cases e; exact hr k t rfl)⟩
  have done {α : Type} (v : α) (t : State) (ht : P t) :
      (∀ w u, Access.ok v t = .ok w u → P u) ∧ ∀ k u, Access.ok v t = .raise k u → P u :=
    ⟨fun _ _ e => (by cases e; exact ht), fun _ _ e => (by cases e)⟩
  unfold Machine.fetch
  refine next (two _ _ h).1 (two _ _ h).2 fun op t ht => ?_
  split
  · exact done _ _ ht
  · split
    · exact ⟨fun _ _ e => (by cases e), fun _ _ e => (by cases e; exact ht)⟩
    · unfold fetchOperands
      split
      · exact next (two _ _ ht).1 (two _ _ ht).2 fun b1 u hu => done _ _ hu
      · refine next (two _ _ ht).1 (two _ _ ht).2 fun b1 u hu => ?_
        exact next (two _ _ hu).1 (two _ _ hu).2 fun b2 w hw => done _ _ hw
      · exact done _ _ ht

/-- What every operation and the clearing of a pending NMI keep, every step keeps. -/
theorem Kept.step (hn : ∀ s, P s → P (s.setNmiPending false)) (h : P s) (hs : step s = .next t) : P t := by
  unfold Machine.step at hs
  split at hs
  · cases hs
  · split at hs
    · cases hs
      exact hP.time 7 _ (hP.enterInterrupt _ _ _ (hn s h))
    · cases hf : Machine.fetch s with
      | ok i u => rw [hf] at hs; exact hP.exec ((hP.fetch h).1 i u hf) t hs
      | raise k u => rw [hf] at hs; exact hP.takeFault k ((hP.fetch h).2 k u hf) t hs

end

end Sys2Proof.Machine
end

