-- ==== Sys2Proof/Laws/PerInstr.lean ====
section
/-! SUPPORT. One fact about every instruction as syntax: it is well-formed exactly when it has an opcode, and then its encoding is
the opcode byte and the operand bytes, as many as its length (30_encoding.md R88, R89). -/
namespace Sys2Proof.Laws.Encoding

/-- An instruction is well-formed exactly when it has an opcode byte; its encoding then is that byte and its operand bytes, and
has the instruction's length. -/
def Statement (i : Instr) : Prop :=
  (i.wellFormed = true ↔ i.opcode.isSome = true) ∧
    ∀ op, i.opcode = some op → encode i = op :: i.operandBytes ∧ (encode i).length = i.length

/-- The length of an encoding from the number of operand bytes. -/
theorem of_operandBytes {i : Instr} (hw : i.wellFormed = true ↔ i.opcode.isSome = true)
    (hl : i.operandBytes.length + 1 = i.length) : Statement i := by
  refine ⟨hw, fun op h => ?_⟩
  have he : encode i = op :: i.operandBytes := by simp [encode, h]
  exact ⟨he, by rw [he, List.length_cons, hl]⟩

/-- A memory operand has as many bytes as its mode's length says. -/
theorem loc_bytes (l : Loc) : l.bytes.length + 1 = l.mode.length := by cases l <;> rfl

/-- A read operand has as many bytes as its mode's length says. -/
theorem src_bytes (o : Src) : o.bytes.length + 1 = o.mode.length := by
  cases o with
  | imm _ => rfl
  | mem l => exact loc_bytes l

/-- A shift operand has as many bytes as its mode's length says. -/
theorem shiftDst_bytes (o : ShiftDst) : o.bytes.length + 1 = o.mode.length := by
  cases o with
  | acc => rfl
  | mem l => exact loc_bytes l.loc

theorem lda (o : Src) : Statement (.lda o) :=
  of_operandBytes (by cases o with | imm _ => exact Iff.rfl | mem l => cases l <;> exact Iff.rfl) (src_bytes o)
theorem ldx (o : Src) : Statement (.ldx o) :=
  of_operandBytes (by cases o with | imm _ => exact Iff.rfl | mem l => cases l <;> exact Iff.rfl) (src_bytes o)
theorem ldy (o : Src) : Statement (.ldy o) :=
  of_operandBytes (by cases o with | imm _ => exact Iff.rfl | mem l => cases l <;> exact Iff.rfl) (src_bytes o)
theorem sta (l : Loc) : Statement (.sta l) :=
  of_operandBytes (by cases l <;> exact Iff.rfl) (loc_bytes l)
theorem stx (l : Loc) : Statement (.stx l) :=
  of_operandBytes (by cases l <;> exact Iff.rfl) (loc_bytes l)
theorem sty (l : Loc) : Statement (.sty l) :=
  of_operandBytes (by cases l <;> exact Iff.rfl) (loc_bytes l)
theorem tax : Statement .tax := of_operandBytes Iff.rfl rfl
theorem tay : Statement .tay := of_operandBytes Iff.rfl rfl
theorem txa : Statement .txa := of_operandBytes Iff.rfl rfl
theorem tya : Statement .tya := of_operandBytes Iff.rfl rfl
theorem tsx : Statement .tsx := of_operandBytes Iff.rfl rfl
theorem txs : Statement .txs := of_operandBytes Iff.rfl rfl
theorem pha : Statement .pha := of_operandBytes Iff.rfl rfl
theorem php : Statement .php := of_operandBytes Iff.rfl rfl
theorem pla : Statement .pla := of_operandBytes Iff.rfl rfl
theorem plp : Statement .plp := of_operandBytes Iff.rfl rfl
theorem adc (o : Src) : Statement (.adc o) :=
  of_operandBytes (by cases o with | imm _ => exact Iff.rfl | mem l => cases l <;> exact Iff.rfl) (src_bytes o)
theorem sbc (o : Src) : Statement (.sbc o) :=
  of_operandBytes (by cases o with | imm _ => exact Iff.rfl | mem l => cases l <;> exact Iff.rfl) (src_bytes o)
theorem and (o : Src) : Statement (.and o) :=
  of_operandBytes (by cases o with | imm _ => exact Iff.rfl | mem l => cases l <;> exact Iff.rfl) (src_bytes o)
theorem ora (o : Src) : Statement (.ora o) :=
  of_operandBytes (by cases o with | imm _ => exact Iff.rfl | mem l => cases l <;> exact Iff.rfl) (src_bytes o)
theorem eor (o : Src) : Statement (.eor o) :=
  of_operandBytes (by cases o with | imm _ => exact Iff.rfl | mem l => cases l <;> exact Iff.rfl) (src_bytes o)
theorem cmp (o : Src) : Statement (.cmp o) :=
  of_operandBytes (by cases o with | imm _ => exact Iff.rfl | mem l => cases l <;> exact Iff.rfl) (src_bytes o)
theorem cpx (o : Src) : Statement (.cpx o) :=
  of_operandBytes (by cases o with | imm _ => exact Iff.rfl | mem l => cases l <;> exact Iff.rfl) (src_bytes o)
theorem cpy (o : Src) : Statement (.cpy o) :=
  of_operandBytes (by cases o with | imm _ => exact Iff.rfl | mem l => cases l <;> exact Iff.rfl) (src_bytes o)
theorem bit (l : Loc) : Statement (.bit l) :=
  of_operandBytes (by cases l <;> exact Iff.rfl) (loc_bytes l)
theorem inc (l : RmwLoc) : Statement (.inc l) :=
  of_operandBytes (by cases l <;> exact Iff.rfl) (loc_bytes l.loc)
theorem dec (l : RmwLoc) : Statement (.dec l) :=
  of_operandBytes (by cases l <;> exact Iff.rfl) (loc_bytes l.loc)
theorem inx : Statement .inx := of_operandBytes Iff.rfl rfl
theorem iny : Statement .iny := of_operandBytes Iff.rfl rfl
theorem dex : Statement .dex := of_operandBytes Iff.rfl rfl
theorem dey : Statement .dey := of_operandBytes Iff.rfl rfl
theorem asl (o : ShiftDst) : Statement (.asl o) :=
  of_operandBytes (by cases o with | acc => exact Iff.rfl | mem l => cases l <;> exact Iff.rfl) (shiftDst_bytes o)
theorem lsr (o : ShiftDst) : Statement (.lsr o) :=
  of_operandBytes (by cases o with | acc => exact Iff.rfl | mem l => cases l <;> exact Iff.rfl) (shiftDst_bytes o)
theorem rol (o : ShiftDst) : Statement (.rol o) :=
  of_operandBytes (by cases o with | acc => exact Iff.rfl | mem l => cases l <;> exact Iff.rfl) (shiftDst_bytes o)
theorem ror (o : ShiftDst) : Statement (.ror o) :=
  of_operandBytes (by cases o with | acc => exact Iff.rfl | mem l => cases l <;> exact Iff.rfl) (shiftDst_bytes o)
theorem jmp (t : JmpTarget) : Statement (.jmp t) := of_operandBytes (by cases t <;> exact Iff.rfl) (by cases t <;> rfl)
theorem jsr (a : Word) : Statement (.jsr a) := of_operandBytes Iff.rfl rfl
theorem rts : Statement .rts := of_operandBytes Iff.rfl rfl
theorem bpl (off : Byte) : Statement (.bpl off) := of_operandBytes Iff.rfl rfl
theorem bmi (off : Byte) : Statement (.bmi off) := of_operandBytes Iff.rfl rfl
theorem bvc (off : Byte) : Statement (.bvc off) := of_operandBytes Iff.rfl rfl
theorem bvs (off : Byte) : Statement (.bvs off) := of_operandBytes Iff.rfl rfl
theorem bcc (off : Byte) : Statement (.bcc off) := of_operandBytes Iff.rfl rfl
theorem bcs (off : Byte) : Statement (.bcs off) := of_operandBytes Iff.rfl rfl
theorem bne (off : Byte) : Statement (.bne off) := of_operandBytes Iff.rfl rfl
theorem beq (off : Byte) : Statement (.beq off) := of_operandBytes Iff.rfl rfl
theorem brk : Statement .brk := of_operandBytes Iff.rfl rfl
theorem rti : Statement .rti := of_operandBytes Iff.rfl rfl
theorem clc : Statement .clc := of_operandBytes Iff.rfl rfl
theorem sec : Statement .sec := of_operandBytes Iff.rfl rfl
theorem cli : Statement .cli := of_operandBytes Iff.rfl rfl
theorem sei : Statement .sei := of_operandBytes Iff.rfl rfl
theorem clv : Statement .clv := of_operandBytes Iff.rfl rfl
theorem cld : Statement .cld := of_operandBytes Iff.rfl rfl
theorem sed : Statement .sed := of_operandBytes Iff.rfl rfl
theorem nop : Statement .nop := of_operandBytes Iff.rfl rfl
theorem unsupported (op : Byte) : Statement (.unsupported op) :=
  of_operandBytes (by cases h : undocumentedOpcodes.contains op <;> simp [Instr.wellFormed, Instr.opcode]) rfl

end Sys2Proof.Laws.Encoding
end

