-- ==== Sys2Proof/Tests/Slice0.lean ====
section
/-! SUPPORT. The model's own tests: ill-formed terms, words of the encoding, single steps from 95_test_vectors.md, and for each
statement with hypotheses a witness that they can be met. Every expected value is from spec/. -/
namespace Sys2Proof.Tests
open Sys2Proof Sys2Proof.Machine

/-! Well-formedness refuses what Table R92 does not have -/

theorem test_wellFormed_refuses_loads_stores :
    (Instr.lda (.mem (.zpy 0))).wellFormed = false ∧ (Instr.ldx (.mem (.zpx 0))).wellFormed = false ∧
    (Instr.ldx (.mem (.absx 0))).wellFormed = false ∧ (Instr.ldy (.mem (.zpy 0))).wellFormed = false ∧
    (Instr.ldy (.mem (.absy 0))).wellFormed = false ∧ (Instr.sta (.zpy 0)).wellFormed = false ∧
    (Instr.stx (.zpx 0)).wellFormed = false ∧ (Instr.stx (.absy 0)).wellFormed = false ∧
    (Instr.sty (.zpy 0)).wellFormed = false ∧ (Instr.sty (.absx 0)).wellFormed = false := by decide

theorem test_wellFormed_refuses_arith :
    (Instr.adc (.mem (.zpy 0))).wellFormed = false ∧ (Instr.sbc (.mem (.zpy 0))).wellFormed = false ∧
    (Instr.and (.mem (.zpy 0))).wellFormed = false ∧ (Instr.ora (.mem (.zpy 0))).wellFormed = false ∧
    (Instr.eor (.mem (.zpy 0))).wellFormed = false ∧ (Instr.cmp (.mem (.zpy 0))).wellFormed = false ∧
    (Instr.cpx (.mem (.zpx 0))).wellFormed = false ∧ (Instr.cpy (.mem (.absx 0))).wellFormed = false ∧
    (Instr.bit (.absx 0)).wellFormed = false := by decide

theorem test_wellFormed_refuses_unsupported_nop : (Instr.unsupported 0xEA).wellFormed = false := by decide

/-! Words written out from Table R92 and Table R89: opcode byte lowest, operand low byte next -/

theorem test_decode_load_store :
    decodeTableWord 16 0x20A1 = some (.lda (.mem (.izx 0x20))) ∧ decodeTableWord 16 0x80A9 = some (.lda (.imm 0x80)) ∧
    decodeTableWord 24 0x10FFB9 = some (.lda (.mem (.absy 0x10FF))) ∧ decodeTableWord 16 0x10B5 = some (.lda (.mem (.zpx 0x10))) ∧
    decodeTableWord 16 0xFFB6 = some (.ldx (.mem (.zpy 0xFF))) ∧ decodeTableWord 24 0x02F0BC = some (.ldy (.mem (.absx 0x02F0))) ∧
    decodeTableWord 16 0x2091 = some (.sta (.izy 0x20)) ∧ decodeTableWord 24 0x80008E = some (.stx (.abs 0x8000)) ∧
    decodeTableWord 16 0xF094 = some (.sty (.zpx 0xF0)) := by decide

theorem test_decode_transfer_stack :
    decodeTableWord 8 0xAA = some .tax ∧ decodeTableWord 8 0xA8 = some .tay ∧ decodeTableWord 8 0x8A = some .txa ∧
    decodeTableWord 8 0x98 = some .tya ∧ decodeTableWord 8 0xBA = some .tsx ∧ decodeTableWord 8 0x9A = some .txs ∧
    decodeTableWord 8 0x48 = some .pha ∧ decodeTableWord 8 0x08 = some .php ∧ decodeTableWord 8 0x68 = some .pla ∧
    decodeTableWord 8 0x28 = some .plp := by decide

theorem test_decode_arith :
    decodeTableWord 16 0x0169 = some (.adc (.imm 0x01)) ∧ decodeTableWord 24 0x1234ED = some (.sbc (.mem (.abs 0x1234))) ∧
    decodeTableWord 16 0x1021 = some (.and (.mem (.izx 0x10))) ∧ decodeTableWord 16 0x1011 = some (.ora (.mem (.izy 0x10))) ∧
    decodeTableWord 16 0x1045 = some (.eor (.mem (.zp 0x10))) ∧ decodeTableWord 24 0x1234DD = some (.cmp (.mem (.absx 0x1234))) ∧
    decodeTableWord 16 0x01E0 = some (.cpx (.imm 0x01)) ∧ decodeTableWord 16 0x10C4 = some (.cpy (.mem (.zp 0x10))) ∧
    decodeTableWord 24 0x20022C = some (.bit (.abs 0x2002)) := by decide

theorem test_decode_inc_shift :
    decodeTableWord 24 0x02FFFE = some (.inc (.absx 0x02FF)) ∧ decodeTableWord 16 0x10D6 = some (.dec (.zpx 0x10)) ∧
    decodeTableWord 8 0xE8 = some .inx ∧ decodeTableWord 8 0xC8 = some .iny ∧ decodeTableWord 8 0xCA = some .dex ∧
    decodeTableWord 8 0x88 = some .dey ∧ decodeTableWord 8 0x0A = some (.asl .acc) ∧
    decodeTableWord 16 0x1046 = some (.lsr (.mem (.zp 0x10))) ∧ decodeTableWord 24 0x12342E = some (.rol (.mem (.abs 0x1234))) ∧
    decodeTableWord 24 0x02007E = some (.ror (.mem (.absx 0x0200))) := by decide

theorem test_decode_control :
    decodeTableWord 24 0x12344C = some (.jmp (.abs 0x1234)) ∧ decodeTableWord 24 0x02FF6C = some (.jmp (.ind 0x02FF)) ∧
    decodeTableWord 24 0x900020 = some (.jsr 0x9000) ∧ decodeTableWord 8 0x60 = some .rts ∧ decodeTableWord 8 0x00 = some .brk ∧
    decodeTableWord 8 0x40 = some .rti ∧ decodeTableWord 16 0x7F10 = some (.bpl 0x7F) ∧ decodeTableWord 16 0x0230 = some (.bmi 0x02) ∧
    decodeTableWord 16 0x0250 = some (.bvc 0x02) ∧ decodeTableWord 16 0x0270 = some (.bvs 0x02) ∧
    decodeTableWord 16 0xFE90 = some (.bcc 0xFE) ∧ decodeTableWord 16 0x00B0 = some (.bcs 0x00) ∧
    decodeTableWord 16 0x10D0 = some (.bne 0x10) ∧ decodeTableWord 16 0xFCF0 = some (.beq 0xFC) := by decide

theorem test_decode_flags_unsupported :
    decodeTableWord 8 0x18 = some .clc ∧ decodeTableWord 8 0x38 = some .sec ∧ decodeTableWord 8 0x58 = some .cli ∧
    decodeTableWord 8 0x78 = some .sei ∧ decodeTableWord 8 0xB8 = some .clv ∧ decodeTableWord 8 0xD8 = some .cld ∧
    decodeTableWord 8 0xF8 = some .sed ∧ decodeTableWord 8 0xEA = some .nop ∧
    decodeTableWord 8 0x02 = some (.unsupported 0x02) ∧ decodeTableWord 8 0xFF = some (.unsupported 0xFF) := by decide

theorem test_decode_rejects_by_name :
    decode [] = .error .noBytes ∧ decode [0xAD, 0x02] = .error (.truncated 0xAD) ∧ decode [0xA9] = .error (.truncated 0xA9) := by
  decide

/-! One step at 0x8000 from the baseline of 95_test_vectors.md -/

/-- The next state of a result. -/
def next? (r : Result) : Option State :=
  match r with
  | .next t => some t
  | .fault _ => none
  | .refused _ => none

/-- One step of the instruction whose word is `w`, placed at 0x8000. -/
def at8000 (nbits w : Nat) (s : State) : Option State := next? (step ((s.setPc 0x8000).withFetchWord nbits w))

/-- Flags from 0s and 1s, in the order N V B D I Z C. -/
def fl (n v b d i z c : Nat) : Flags :=
  { n := n == 1, v := v == 1, b := b == 1, d := d == 1, i := i == 1, z := z == 1, c := c == 1 }

def base : State := State.reset

/-- What most rows of the tables of Part 2 give. -/
structure Row where
  a     : Byte
  x     : Byte
  y     : Byte
  sp    : Byte
  pc    : Word
  flags : Flags
  cyc   : Nat
  deriving DecidableEq, Repr

def shows (t : State) : Row := { a := t.a, x := t.x, y := t.y, sp := t.sp, pc := t.pc, flags := t.flags, cyc := t.cyc }

theorem test_lda_izy_page_cross :
    (at8000 16 0x20B1 { base with y := 0x01, ram := [(0x20, 0xFF), (0x21, 0x02), (0x300, 0x99)] }).map shows =
      some ⟨0x99, 0, 1, 0, 0x8002, fl 1 0 0 0 0 0 0, 6⟩ := by decide

theorem test_lda_izx_pointer_wraps :
    (at8000 16 0xFFA1 { base with ram := [(0, 0x02), (0xFF, 0x34), (0x234, 0x5A)] }).map shows =
      some ⟨0x5A, 0, 0, 0, 0x8002, fl 0 0 0 0 0 0 0, 6⟩ := by decide

theorem test_lda_status_read_clears_vblank :
    (at8000 24 0x2002AD (base.setPpu { base.ppu with vblank := true, w := true, latch := 0x3F })).map
      (fun t => (t.ppu.vblank, t.ppu.w, t.pc, t.cyc, t.spriteDraws)) = some (false, false, 0x8003, 4, 1) := by decide

theorem test_ldx_zpy_wraps :
    (at8000 16 0xFFB6 { base with y := 0x02, ram := [(1, 0x80)] }).map shows =
      some ⟨0, 0x80, 0x02, 0, 0x8002, fl 1 0 0 0 0 0 0, 4⟩ := by decide

theorem test_ldy_absx_cross :
    (at8000 24 0x02F0BC { base with x := 0x20, y := 0x55 }).map shows =
      some ⟨0, 0x20, 0, 0, 0x8003, fl 0 0 0 0 0 1 0, 5⟩ := by decide

theorem test_sta_absx_no_penalty :
    (at8000 24 0x02F09D { base with a := 0x11, x := 0x20 }).map (fun t => (t.ram.read 0x310, t.flags, t.cyc)) =
      some (0x11, fl 0 0 0 0 0 0 0, 5) := by decide

theorem test_sta_apu_io_faults :
    (at8000 24 0x40008D { base with a := 0x11 }).map (fun t => (t.fault, t.pc, t.cyc)) =
      some (some { kind := .addressOutOfBounds 0x4000, pc := 0x8000 }, 0x8000, 0) := by decide

theorem test_stx_controller_reset :
    (at8000 24 0x80008E { base with x := 0x80, map := { base.map with shift := 0x04, control := 0x02 } }).map
      (fun t => (t.map.shift, t.map.control, t.pc, t.cyc)) = some (0x10, 0x0E, 0x8003, 4) := by decide

theorem test_sty_zpx_wraps :
    (at8000 16 0xF094 { base with y := 0x5A, x := 0x20 }).map (fun t => (t.ram, t.pc, t.cyc)) =
      some ([(0x10, 0x5A)], 0x8002, 4) := by decide

theorem test_tax : (at8000 8 0xAA { base with x := 0x33 }).map shows = some ⟨0, 0, 0, 0, 0x8001, fl 0 0 0 0 0 1 0, 2⟩ := by decide

theorem test_tay :
    (at8000 8 0xA8 { base with a := 0x90 }).map shows = some ⟨0x90, 0, 0x90, 0, 0x8001, fl 1 0 0 0 0 0 0, 2⟩ := by decide

theorem test_txa :
    (at8000 8 0x8A { base with a := 0x80, x := 0x7F }).map shows = some ⟨0x7F, 0x7F, 0, 0, 0x8001, fl 0 0 0 0 0 0 0, 2⟩ := by
  decide

theorem test_tya :
    (at8000 8 0x98 { base with y := 0xFF }).map shows = some ⟨0xFF, 0, 0xFF, 0, 0x8001, fl 1 0 0 0 0 0 0, 2⟩ := by decide

theorem test_tsx :
    (at8000 8 0xBA { base with sp := 0xFD }).map shows = some ⟨0, 0xFD, 0, 0xFD, 0x8001, fl 1 0 0 0 0 0 0, 2⟩ := by decide

theorem test_txs_writes_no_flag :
    (at8000 8 0x9A { base with sp := 0x55 }).map shows = some ⟨0, 0, 0, 0, 0x8001, fl 0 0 0 0 0 0 0, 2⟩ := by decide

theorem test_pha_wraps :
    (at8000 8 0x48 { base with a := 0x33 }).map (fun t => (t.ram, t.sp, t.cyc)) = some ([(0x100, 0x33)], 0xFF, 3) := by decide

theorem test_php_sets_bits_5_and_4 :
    (at8000 8 0x08 { base with sp := 0xFF, flags := fl 1 0 0 1 0 0 1 }).map (fun t => (t.ram, t.flags, t.sp, t.cyc)) =
      some ([(0x1FF, 0xB9)], fl 1 0 0 1 0 0 1, 0xFE, 3) := by decide

theorem test_pla_wraps :
    (at8000 8 0x68 { base with sp := 0xFF, ram := [(0x100, 0x80)] }).map shows =
      some ⟨0x80, 0, 0, 0, 0x8001, fl 1 0 0 0 0 0 0, 4⟩ := by decide

theorem test_plp_ignores_bit_5 :
    (at8000 8 0x28 { base with sp := 0xFE, ram := [(0x1FF, 0xDF)] }).map shows =
      some ⟨0, 0, 0, 0xFF, 0x8001, fl 1 1 1 1 1 1 1, 4⟩ := by decide

theorem test_adc_signed_overflow :
    (at8000 16 0x0169 { base with a := 0x7F }).map shows = some ⟨0x80, 0, 0, 0, 0x8002, fl 1 1 0 0 0 0 0, 2⟩ := by decide

theorem test_adc_refused_decimal_faults :
    (at8000 16 0x0169 { base with
        a := 0x09, flags := fl 0 0 0 1 0 0 0
        cfg := { base.cfg with params := { Params.default with decimalPolicy := .refuse } } }).map (fun t => (t.fault, t.a, t.cyc)) =
      some (some { kind := .decimalUnsupported 0x8000, pc := 0x8000 }, 0x09, 0) := by decide

theorem test_sbc_signed_overflow :
    (at8000 16 0x01E9 { base with a := 0x80, flags := fl 0 0 0 0 0 0 1 }).map shows =
      some ⟨0x7F, 0, 0, 0, 0x8002, fl 0 1 0 0 0 0 1, 2⟩ := by decide

theorem test_sbc_borrow_in :
    (at8000 16 0x05E9 { base with a := 0x05 }).map shows = some ⟨0xFF, 0, 0, 0, 0x8002, fl 1 0 0 0 0 0 0, 2⟩ := by decide

theorem test_and :
    (at8000 16 0x0F29 { base with a := 0xF0 }).map shows = some ⟨0, 0, 0, 0, 0x8002, fl 0 0 0 0 0 1 0, 2⟩ := by decide

theorem test_ora :
    (at8000 16 0x8009 { base with a := 0x01 }).map shows = some ⟨0x81, 0, 0, 0, 0x8002, fl 1 0 0 0 0 0 0, 2⟩ := by decide

theorem test_eor :
    (at8000 16 0xFF49 { base with a := 0x0F }).map shows = some ⟨0xF0, 0, 0, 0, 0x8002, fl 1 0 0 0 0 0 0, 2⟩ := by decide

theorem test_cmp_source_example :
    (at8000 16 0x10C9 { base with a := 0x10 }).map shows = some ⟨0x10, 0, 0, 0, 0x8002, fl 0 0 0 0 0 1 1, 2⟩ ∧
    (at8000 16 0x20C9 { base with a := 0x10 }).map shows = some ⟨0x10, 0, 0, 0, 0x8002, fl 1 0 0 0 0 0 0, 2⟩ := by decide

theorem test_cpx :
    (at8000 16 0x01E0 { base with x := 0x02 }).map shows = some ⟨0, 0x02, 0, 0, 0x8002, fl 0 0 0 0 0 0 1, 2⟩ := by decide

theorem test_cpy :
    (at8000 16 0x10C4 { base with ram := [(0x10, 0x80)] }).map shows = some ⟨0, 0, 0, 0, 0x8002, fl 1 0 0 0 0 0 0, 3⟩ := by decide

theorem test_bit :
    (at8000 16 0x1024 { base with a := 0x01, ram := [(0x10, 0xC0)] }).map shows =
      some ⟨0x01, 0, 0, 0, 0x8002, fl 1 1 0 0 0 1 0, 3⟩ := by decide

theorem test_inc_absx_no_penalty :
    (at8000 24 0x02FFFE { base with x := 0x01, ram := [(0x300, 0x7F)] }).map (fun t => (t.ram, t.flags, t.cyc)) =
      some ([(0x300, 0x80)], fl 1 0 0 0 0 0 0, 7) := by decide

theorem test_dec_wraps :
    (at8000 16 0x10C6 base).map (fun t => (t.ram, t.flags, t.cyc)) = some ([(0x10, 0xFF)], fl 1 0 0 0 0 0 0, 5) := by decide

theorem test_inx :
    (at8000 8 0xE8 { base with x := 0xFF, flags := fl 0 0 0 0 0 0 1 }).map shows =
      some ⟨0, 0, 0, 0, 0x8001, fl 0 0 0 0 0 1 1, 2⟩ := by decide

theorem test_iny :
    (at8000 8 0xC8 { base with y := 0x7F }).map shows = some ⟨0, 0, 0x80, 0, 0x8001, fl 1 0 0 0 0 0 0, 2⟩ := by decide

theorem test_dex : (at8000 8 0xCA { base with x := 0x01 }).map shows = some ⟨0, 0, 0, 0, 0x8001, fl 0 0 0 0 0 1 0, 2⟩ := by decide

theorem test_dey : (at8000 8 0x88 base).map shows = some ⟨0, 0, 0xFF, 0, 0x8001, fl 1 0 0 0 0 0 0, 2⟩ := by decide

theorem test_asl_acc :
    (at8000 8 0x0A { base with a := 0x80 }).map shows = some ⟨0, 0, 0, 0, 0x8001, fl 0 0 0 0 0 1 1, 2⟩ := by decide

theorem test_asl_on_controller :
    (at8000 24 0x80000E base).map (fun t => (t.map.shift, t.map.control, t.cyc)) = some (0x08, 0x0F, 6) := by decide

theorem test_lsr_clears_n :
    (at8000 8 0x4A { base with a := 0xFF, flags := fl 1 0 0 0 0 0 0 }).map shows =
      some ⟨0x7F, 0, 0, 0, 0x8001, fl 0 0 0 0 0 0 1, 2⟩ := by decide

theorem test_rol_carry_in :
    (at8000 8 0x2A { base with flags := fl 0 0 0 0 0 0 1 }).map shows = some ⟨0x01, 0, 0, 0, 0x8001, fl 0 0 0 0 0 0 0, 2⟩ := by
  decide

theorem test_ror_carry_in_to_bit_7 :
    (at8000 8 0x6A { base with flags := fl 0 0 0 0 0 0 1 }).map shows = some ⟨0x80, 0, 0, 0, 0x8001, fl 1 0 0 0 0 0 0, 2⟩ := by
  decide

theorem test_ror_absx :
    (at8000 24 0x02007E { base with x := 0x05, ram := [(0x205, 0x03)] }).map (fun t => (t.ram, t.flags, t.cyc)) =
      some ([(0x205, 0x01)], fl 0 0 0 0 0 0 1, 7) := by decide

theorem test_jmp_ind_page_wrap :
    (at8000 24 0x02FF6C { base with ram := [(0x200, 0x90), (0x300, 0x80)] }).map shows =
      some ⟨0, 0, 0, 0, 0x9000, fl 0 0 0 0 0 0 0, 5⟩ := by decide

theorem test_jsr :
    (next? (step ((base.setPc 0x8010).setSp 0xFF |>.withFetchWord 24 0x900020))).map (fun t => (t.ram, t.sp, t.pc, t.cyc)) =
      some ([(0x1FE, 0x12), (0x1FF, 0x80)], 0xFD, 0x9000, 6) := by decide

theorem test_rts_of_FFFF :
    (at8000 8 0x60 { base with sp := 0xFD, ram := [(0x1FE, 0xFF), (0x1FF, 0xFF)] }).map shows =
      some ⟨0, 0, 0, 0xFF, 0x0000, fl 0 0 0 0 0 0 0, 6⟩ := by decide

theorem test_bpl_forward_cross :
    (next? (step ((base.setPc 0x80F0).withFetchWord 16 0x7F10))).map (fun t => (t.pc, t.cyc)) = some (0x8171, 4) := by decide

theorem test_bmi : (at8000 16 0x0230 { base with flags := fl 1 0 0 0 0 0 0 }).map (fun t => (t.pc, t.cyc)) = some (0x8004, 3) := by
  decide

theorem test_bvc : (at8000 16 0x0250 base).map (fun t => (t.pc, t.cyc)) = some (0x8004, 3) := by decide

theorem test_bvs_not_taken : (at8000 16 0x0270 base).map (fun t => (t.pc, t.cyc)) = some (0x8002, 2) := by decide

theorem test_bcc_to_itself : (at8000 16 0xFE90 base).map (fun t => (t.pc, t.cyc)) = some (0x8000, 3) := by decide

theorem test_bcs_source_mask_rule :
    (at8000 16 0x10B0 { base with
        flags := fl 0 0 0 0 0 0 1
        cfg := { base.cfg with params := { Params.default with branchPageRule := .sourceMaskF0 } } }).map
      (fun t => (t.pc, t.cyc)) = some (0x8012, 4) := by decide

theorem test_bne : (at8000 16 0x10D0 base).map (fun t => (t.pc, t.cyc)) = some (0x8012, 3) := by decide

theorem test_beq_backward_cross :
    (next? (step (({ base with flags := fl 0 0 0 0 0 1 0 } : State).setPc 0x8100 |>.withFetchWord 16 0xFCF0))).map
      (fun t => (t.pc, t.cyc)) = some (0x80FE, 4) := by decide

theorem test_brk :
    (at8000 8 0x00 { base with
        sp := 0xFF, flags := fl 0 0 0 0 0 0 1, cfg := { base.cfg with prgRom := [(0x3FFF, 0x90)] } }).map
      (fun t => (t.ram, t.flags, t.sp, t.pc, t.cyc)) =
      some ([(0x1FD, 0x31), (0x1FE, 0x02), (0x1FF, 0x80)], fl 0 0 0 0 1 0 1, 0xFC, 0x9000, 7) := by decide

theorem test_rti :
    (at8000 8 0x40 { base with sp := 0xFC, ram := [(0x1FD, 0xE3), (0x1FE, 0x02), (0x1FF, 0x80)] }).map shows =
      some ⟨0, 0, 0, 0xFF, 0x8002, fl 1 1 0 0 0 1 1, 6⟩ := by decide

theorem test_flag_instructions :
    (at8000 8 0x18 { base with flags := fl 1 1 1 1 1 1 1 }).map shows = some ⟨0, 0, 0, 0, 0x8001, fl 1 1 1 1 1 1 0, 2⟩ ∧
    (at8000 8 0x38 base).map shows = some ⟨0, 0, 0, 0, 0x8001, fl 0 0 0 0 0 0 1, 2⟩ ∧
    (at8000 8 0x58 { base with flags := fl 1 1 1 1 1 1 1 }).map shows = some ⟨0, 0, 0, 0, 0x8001, fl 1 1 1 1 0 1 1, 2⟩ ∧
    (at8000 8 0x78 base).map shows = some ⟨0, 0, 0, 0, 0x8001, fl 0 0 0 0 1 0 0, 2⟩ ∧
    (at8000 8 0xB8 { base with flags := fl 1 1 1 1 1 1 1 }).map shows = some ⟨0, 0, 0, 0, 0x8001, fl 1 0 1 1 1 1 1, 2⟩ ∧
    (at8000 8 0xD8 { base with flags := fl 1 1 1 1 1 1 1 }).map shows = some ⟨0, 0, 0, 0, 0x8001, fl 1 1 1 0 1 1 1, 2⟩ ∧
    (at8000 8 0xF8 base).map shows = some ⟨0, 0, 0, 0, 0x8001, fl 0 0 0 1 0 0 0, 2⟩ ∧
    (at8000 8 0xEA base).map shows = some ⟨0, 0, 0, 0, 0x8001, fl 0 0 0 0 0 0 0, 2⟩ := by decide

theorem test_unsupported_faults :
    (at8000 8 0x02 { base with a := 0x01 }).map (fun t => (t.fault, t.pc, t.cyc)) =
      some (some { kind := .unsupportedOpcode 0x02 0x8000, pc := 0x8000 }, 0x8000, 0) := by decide

/-! Sequences of Part 3 -/

/-- The state after register writes, made one after another. -/
def writes (l : List (PpuReg × Byte)) (s : State) : State := l.foldl (fun s p => ppuWrite p.1 p.2 s) s

theorem test_S3_palette :
    (ppuRead .data (writes [(.addr, 0x3F), (.addr, 0x10), (.data, 0xFF), (.addr, 0x3F), (.addr, 0x00)] base)).1 = 0x3F := by decide

theorem test_S4_increment_32 :
    (fun s => (s.ppu.ciram, s.ppu.v)) (writes [(.ctrl, 0x04), (.addr, 0x20), (.addr, 0x00), (.data, 0x01), (.data, 0x02)] base) =
      ([(0x000, 0x01), (0x020, 0x02)], 0x2040) := by decide

theorem test_S6_scroll :
    (fun s => (s.ppu.t, s.ppu.x, s.ppu.w)) (writes [(.scroll, 0x7D), (.scroll, 0x5E)] base) = (0x616F, 5, false) := by decide

theorem test_S7_oam :
    (fun s => (s.ppu.oam, s.ppu.oamaddr)) (writes [(.oamAddr, 0xFF), (.oamData, 0x12), (.oamData, 0x34)] base) =
      ([(0x00, 0x34), (0xFF, 0x12)], 0x01) := by decide

theorem test_E5_commit :
    (fun s => (s.map.control, s.map.shift, s.ppu.mirroring))
        (mapWrite 0x8000 0x01 (mapWrite 0x8000 0x00 (mapWrite 0x8000 0x01 (mapWrite 0x8000 0x01 (mapWrite 0x8000 0x00 base))))) =
      (0x16, 0x10, .vertical) := by decide

theorem test_E9_construction_failures :
    (∀ p d, construct { resetImage with prgRom := [] } p d = .error (.inconsistentPrgSize 1 0)) ∧
    (∀ p d, construct { resetImage with prgBanks := 0, prgRom := [] } p d = .error (.inconsistentPrgSize 0 0)) :=
  ⟨fun _ _ => rfl, fun _ _ => rfl⟩

/-! Witnesses: for each statement with hypotheses, a concrete state and operands that meet them. `witness_O<n>_…` is for
statement O<n>. -/

/-- A state in the middle of a run: memories with contents, a shift register in mid-sequence, PRG-RAM disabled by nothing. -/
def mid : State :=
  { base with
    a := 0x80, x := 0x20, y := 0xFF, sp := 0x01, pc := 0x0200, flags := fl 1 0 1 0 0 0 1, cyc := 12
    ram := [(0x10, 0x7F), (0x1FF, 0x80), (0x7FF, 0x01)]
    prgRam := [(0x1FFF, 0xEA)]
    map := { base.map with shift := 0x0C }
    ppu := { base.ppu with scanline := 241, cycle := 340, ctrl := 0x80, oamaddr := 0xFF, pal := [(0x1F, 0x3F)] } }

/-- `mid` with the vertical-blank NMI model and an NMI pending. -/
def midNmi : State :=
  { mid with
    nmiPending := true
    cfg := { base.cfg with params := { Params.default with nmiModel := .vblankEdge, tickRatio := .three } } }

/-- `base` without PRG-RAM, and `base` with PRG-RAM disabled. -/
def noPrgRam : State := { base with cfg := { base.cfg with hasPrgRam := false } }
def ramOff : State := { base with map := { base.map with prg := 0x10 } }

/-- `base` with decimal arithmetic refused and D set. -/
def decimal : State :=
  { base with
    flags := fl 0 0 0 1 0 0 0
    cfg := { base.cfg with params := { Params.default with decimalPolicy := .refuse } } }

theorem mid_inv : Inv mid := by constructor <;> decide

theorem midNmi_inv : Inv midNmi := by constructor <;> decide

theorem witness_O1_wellFormed : (Instr.sty (.zpx 0xFF)).wellFormed = true := by decide

theorem witness_O2_decodes : decode [0xBD, 0xFF, 0x10, 0x99] = .ok (.lda (.mem (.absx 0x10FF)), [0x99]) := by decide

/-- The three bytes lie at 0xFFFE and 0xFFFF in PRG-ROM and at 0x0000 in RAM. -/
theorem witness_O5_wraps :
    let s : State := { base with pc := 0xFFFE, ram := [(0, 0x12)], cfg := { base.cfg with prgRom := [(0x3FFE, 0x4C), (0x3FFF, 0x34)] } }
    s.fault = none ∧ s.nmiPending = false ∧ (Instr.jmp (.abs 0x1234)).wellFormed = true ∧
    s.cfg.params.omitted = [] ∧ (Instr.jmp (.abs 0x1234)).length = 3 ∧
    [fetchByte (s.pc + 0) s, fetchByte (s.pc + 1) s, fetchByte (s.pc + 2) s] =
      (encode (.jmp (.abs 0x1234))).map some := by decide

/-- The opcode lies at 0x7FFF in PRG-RAM. -/
theorem witness_O5_prgRam :
    fetchByte 0x7FFF mid = some 0xEA ∧ encode .nop = [0xEA] ∧ Instr.nop.length = 1 ∧ mid.fault = none := by decide

/-- PC at 0x3FFE, a mirror of the write-only register 6, which reads as the latch; 0x3FFF is the picture-data port; 0x4000 faults. -/
def fetchPpu (latch readbuf : Byte) (pc : Word) : State :=
  { base with pc := pc, ppu := { base.ppu with latch := latch, readbuf := readbuf } }

theorem witness_O5_device_fetch :
    busRead 0x3FFE (fetchPpu 0xA9 0x12 0x3FFE) = .ok 0xA9 (fetchPpu 0xA9 0x12 0x3FFE) ∧ (0xA9 : Byte) ∉ undocumentedOpcodes ∧
    (0xA9 : Byte) ∉ decimalOpcodes ∧ opcodeLength 0xA9 = 2 ∧ opcodeLength 0xE8 = 1 ∧ opcodeLength 0xAD = 3 ∧
    (match busRead 0x3FFF (fetchPpu 0xA9 0x12 0x3FFE) with | .ok v _ => v | .raise _ _ => 0) = 0x12 := by decide

theorem witness_O60_operand_faults :
    busRead 0x3FFE (fetchPpu 0xAD 0x12 0x3FFE) = .ok 0xAD (fetchPpu 0xAD 0x12 0x3FFE) ∧ opcodeLength 0xAD = 3 ∧
    (∃ t, busRead 0x3FFF (fetchPpu 0xAD 0x12 0x3FFE) = .ok 0x12 t ∧
      busRead 0x4000 t = .raise (.addressOutOfBounds 0x4000) t) ∧
    (∃ t, busRead 0x3FFF (fetchPpu 0x00 0xA9 0x3FFF) = .ok 0xA9 t ∧
      busRead 0x4000 t = .raise (.addressOutOfBounds 0x4000) t) :=
  ⟨by decide, by decide, ⟨_, rfl, rfl⟩, ⟨_, rfl, rfl⟩⟩

theorem witness_O60_opcode_fetch_and_decimal :
    busRead 0x4000 { base with pc := 0x4000 } = .raise (.addressOutOfBounds 0x4000) { base with pc := 0x4000 } ∧
    busRead 0x0000 { decimal with ram := [(0, 0xFD)] } = .ok 0xFD { decimal with ram := [(0, 0xFD)] } ∧
    (0xFD : Byte) ∈ decimalOpcodes ∧ decimal.cfg.params.decimalPolicy = .refuse ∧ decimal.flags.d = true ∧
    decimal.cfg.params.omitted = [] ∧ decimal.fault = none ∧ decimal.nmiPending = false := by decide

theorem witness_O6_undocumented_and_omitted :
    (∃ t, busRead 0x0200 { base with pc := 0x0200, ram := [(0x200, 0xFF)] } = .ok 0xFF t) ∧ (0xFF : Byte) ∈ undocumentedOpcodes ∧
    (∃ t, busRead 0x8000 { base with cfg := { base.cfg with params := { Params.default with omitted := [0x00] } } } = .ok 0x00 t) ∧
    base.nmiPending = false ∧ base.fault = none :=
  ⟨⟨_, rfl⟩, by decide, ⟨_, rfl⟩, rfl, rfl⟩

theorem witness_O7_both :
    base.fault = none ∧ ({ base with fault := some { kind := .ramDisabled 0x6000, pc := 0x8000 } } : State).fault ≠ none := by decide

theorem witness_O8_pending :
    midNmi.fault = none ∧ midNmi.cfg.params.nmiModel = .vblankEdge ∧ midNmi.nmiPending = true := by decide

theorem witness_O9_instruction_with_pending : ∃ t, exec .nop midNmi = .next t ∧ midNmi.nmiPending = true := ⟨_, rfl, rfl⟩

theorem witness_O10_differ :
    let t : State := { mid with ppu := { mid.ppu with mask := 0xFF, ctrl := 0xFB } }
    SameButRenderBits mid t ∧ t ≠ mid :=
  ⟨⟨rfl, rfl, rfl⟩, by decide⟩

/-- One step of `i`'s word from `s` that records the fault `k`. -/
def stepFaults (nbits w : Nat) (s : State) (k : ErrorKind) : Prop :=
  ∃ t, step (s.withFetchWord nbits w) = .next t ∧ t.fault = some { kind := k, pc := s.pc }

/-- The kinds of O12 at the ends of their ranges. -/
theorem witness_O11_O12_faults :
    stepFaults 24 0x4000AD base (.addressOutOfBounds 0x4000) ∧ stepFaults 24 0x5FFFAD base (.addressOutOfBounds 0x5FFF) ∧
    stepFaults 24 0x60008D noPrgRam (.addressOutOfBounds 0x6000) ∧ stepFaults 24 0x7FFF8D noPrgRam (.addressOutOfBounds 0x7FFF) ∧
    stepFaults 24 0x6000EE ramOff (.ramDisabled 0x6000) ∧ stepFaults 24 0x7FFFEE ramOff (.ramDisabled 0x7FFF) ∧
    stepFaults 8 0x02 base (.unsupportedOpcode 0x02 0x0000) ∧ stepFaults 16 0x0169 decimal (.decimalUnsupported 0x0000) :=
  ⟨⟨_, rfl, rfl⟩, ⟨_, rfl, rfl⟩, ⟨_, rfl, rfl⟩, ⟨_, rfl, rfl⟩, ⟨_, rfl, rfl⟩, ⟨_, rfl, rfl⟩, ⟨_, rfl, rfl⟩, ⟨_, rfl, rfl⟩⟩

theorem witness_O13_both :
    (∃ t, step base = .next t ∧ t.fault = none) ∧
    (∃ t, step (base.withFetchWord 8 0xFF) = .next t ∧ t.fault ≠ none) :=
  ⟨⟨_, rfl, rfl⟩, ⟨_, rfl, by decide⟩⟩

theorem witness_O14_O35_step : ∃ t, Inv mid ∧ step mid = .next t := ⟨_, mid_inv, rfl⟩

theorem resetImage_length : resetImage.prgRom.length = 16384 := List.length_replicate

/-- The premises of O17 in their order, each met by an image that passes the checks before it. -/
theorem witness_O17_premises :
    ({ resetImage with prgRom := [] } : Image).prgRom.length ≠ 1 * 16384 ∧
    (resetImage.prgBanks.val = 1 ∧ resetImage.prgRom.length = resetImage.prgBanks.val * 16384) ∧
    ({ resetImage with chrRom := [0x00] } : Image).chrRom.length % 8192 ≠ 0 ∧
    resetImage.chrRom.length % 8192 = 0 ∧
    (({ resetImage with prgRamUnits := 2 } : Image).prgRamUnits ≠ 0 ∧ ({ resetImage with prgRamUnits := 2 } : Image).prgRamUnits ≠ 1) ∧
    resetImage.prgRamUnits = 1 ∧ ({ resetImage with mapperId := 4 } : Image).mapperId ≠ 1 ∧ resetImage.mapperId = 1 := by
  rw [resetImage_length]
  decide

/-- An image with CHR-ROM. -/
def chrImage : Image := { resetImage with chrRom := List.replicate 8192 0x5A }

/-- Draws whose strings are not empty. -/
def draws : PowerOn :=
  { zeroDraws with ram := [0x12], prgRam := [0x34], chrRam := [0x56], oam := [0x78], ciram := [0x9A], pal := [0x3F] }

theorem witness_O16_O18_constructs (d : PowerOn) :
    (∃ s, construct resetImage Params.default d = .ok s) ∧ ∃ s, construct chrImage Params.default d = .ok s := by
  have h (img : Image) (e : imageError img = none) : ∃ s, construct img Params.default d = .ok s := by
    unfold construct
    rw [e]
    exact ⟨_, rfl⟩
  constructor
  · apply h
    unfold imageError
    rw [resetImage_length]
    rfl
  · apply h
    have hp : chrImage.prgRom.length = 16384 := List.length_replicate
    have hc : chrImage.chrRom.length = 8192 := List.length_replicate
    unfold imageError
    rw [hp, hc]
    rfl

theorem witness_O18_cells :
    draws.ram[0]? = some 0x12 ∧ (resetImage.prgRamUnits = 1 ∧ draws.prgRam[0]? = some 0x34) ∧
    (resetImage.chrRom = [] ∧ draws.chrRam[0]? = some 0x56) ∧ draws.oam[0]? = some 0x78 ∧ draws.ciram[0]? = some 0x9A ∧
    draws.pal[0]? = some 0x3F ∧ resetImage.prgRom[16383]? = some 0x00 ∧ chrImage.chrRom[8191]? = some 0x5A :=
  ⟨rfl, ⟨rfl, rfl⟩, ⟨rfl, rfl⟩, rfl, rfl, rfl,
    List.getElem?_replicate.trans (if_pos (by decide)), List.getElem?_replicate.trans (if_pos (by decide))⟩

theorem witness_O19_mirror_ends :
    Inv mid ∧ (0x1FFF : Word).toNat < 0x2000 ∧ (0x07FF : Word).toNat < 0x2000 ∧
    (0x1FFF : Word).toNat % 0x0800 = (0x07FF : Word).toNat % 0x0800 :=
  ⟨mid_inv, by decide⟩

theorem witness_O20_ends :
    (0x2000 ≤ (0x2000 : Word).toNat ∧ (0x2000 : Word).toNat < 0x4000) ∧
    (0x2000 ≤ (0x3FFF : Word).toNat ∧ (0x3FFF : Word).toNat < 0x4000) := by decide

theorem witness_O21_ends :
    (busRead 0x4000 base = .raise (.addressOutOfBounds 0x4000) base ∧ busRead 0x5FFF base = .raise (.addressOutOfBounds 0x5FFF) base) ∧
    (noPrgRam.cfg.hasPrgRam = false ∧ busRead 0x6000 noPrgRam = .raise (.addressOutOfBounds 0x6000) noPrgRam ∧
      busRead 0x7FFF noPrgRam = .raise (.addressOutOfBounds 0x7FFF) noPrgRam) ∧
    (ramOff.cfg.hasPrgRam = true ∧ ramOff.map.prg.getLsbD 4 = true ∧ busRead 0x6000 ramOff = .raise (.ramDisabled 0x6000) ramOff) ∧
    (mid.cfg.hasPrgRam = true ∧ mid.map.prg.getLsbD 4 = false ∧ busRead 0x7FFF mid = .ok 0xEA mid ∧
      busRead 0x6000 mid = .ok 0x00 mid) := by decide

/-- S9 of 95_test_vectors.md: four banks, the first byte of bank b being 0xB0 + b. -/
def s9 (control prg : BitVec 5) : State :=
  { base with
    cfg := { base.cfg with prgBanks := 4, prgRom := [(0, 0xB0), (0x4000, 0xB1), (0x8000, 0xB2), (0xC000, 0xB3)] }
    map := { base.map with control := control, prg := prg } }

theorem witness_O22_modes :
    busRead 0x8000 (s9 0x02 0x0F) = .ok 0xB2 (s9 0x02 0x0F) ∧ busRead 0xC000 (s9 0x06 0x03) = .ok 0xB3 (s9 0x06 0x03) ∧
    busRead 0xC000 (s9 0x0A 0x02) = .ok 0xB2 (s9 0x0A 0x02) ∧ busRead 0x8000 (s9 0x0F 0x02) = .ok 0xB2 (s9 0x0F 0x02) ∧
    (0x8000 ≤ (0xFFFF : Word).toNat ∧ 1 ≤ (s9 0x0F 0x02).cfg.prgBanks.val) := by decide

theorem witness_O23_clauses :
    (0x80 : Byte).getLsbD 7 = true ∧ (0x7F : Byte).getLsbD 7 = false ∧ base.map.shift.getLsbD 0 = false ∧
    ({ base.map with shift := 0x01 } : MapState).shift.getLsbD 0 = true ∧
    (0x8000 ≤ (0x8000 : Word).toNat ∧ (0x9FFF : Word).toNat < 0xA000) ∧
    (0xA000 ≤ (0xA000 : Word).toNat ∧ (0xBFFF : Word).toNat < 0xC000) ∧
    (0xC000 ≤ (0xC000 : Word).toNat ∧ (0xDFFF : Word).toNat < 0xE000) ∧ 0xE000 ≤ (0xE000 : Word).toNat := by decide

theorem witness_O24_sequence :
    (∀ a, a ∈ [0x8000, 0xFFFF, 0xA000, 0xC000, 0xE000] → 0x8000 ≤ (BitVec.ofNat 16 a).toNat) ∧
    (∀ v, v ∈ ([0x00, 0x01, 0x7F, 0x00, 0x01] : List Byte) → v.getLsbD 7 = false) ∧ base.map.shift = 0x10 ∧
    (0xFF : Byte).getLsbD 7 = true := by decide

theorem witness_O25_ends : (0x0000 : BitVec 14).toNat < 0x2000 ∧ (0x1FFF : BitVec 14).toNat < 0x2000 ∧ base.cfg.chrRomLen % 8192 = 0 := by
  decide

theorem witness_O28_toggle : base.ppu.w = false ∧ ({ base.ppu with w := true } : Ppu).w = true := by decide

theorem witness_O29_inv : Inv mid ∧ mid.ppu.oamaddr = 0xFF := ⟨mid_inv, rfl⟩

theorem witness_O30_ends :
    ((0x3EFF : BitVec 15).setWidth 14).toNat < 0x3F00 ∧ 0x3F00 ≤ ((0x3F00 : BitVec 15).setWidth 14).toNat ∧
    0x3F00 ≤ ((0x7FFF : BitVec 15).setWidth 14).toNat := by decide

theorem witness_O31_ends :
    (0x2000 ≤ (0x2000 : BitVec 14).toNat ∧ (0x3EFF : BitVec 14).toNat < 0x3F00) ∧
    (0x3000 ≤ (0x3000 : BitVec 14).toNat ∧ (0x3000 : BitVec 14).toNat < 0x3F00) ∧
    (0x3F00 ≤ (0x3F00 : BitVec 14).toNat ∧ 0x3F00 ≤ (0x3FFF : BitVec 14).toNat) := by decide

theorem witness_O32_stores :
    Inv mid ∧ (∃ t, busWrite 0x2004 0x12 mid = .ok () t) ∧ storedCell 0x2004 mid = some (.oam 0xFF) ∧
    storedCell 0x1FFF mid = some (.ram 0x7FF) ∧ storedCell 0x2004 mid ≠ some (.ram 0x7FF) :=
  ⟨mid_inv, ⟨_, rfl⟩, by decide⟩

theorem witness_O33_in_range : mid.ppu.scanline ≤ 261 ∧ mid.ppu.cycle ≤ 340 ∧ mid.ppu.pending = 0 := by decide

theorem witness_O34_start :
    base.ppu.scanline = 261 ∧ base.ppu.cycle = 0 ∧ base.ppu.pending = 0 ∧ 1 ≤ 341 * 242 ∧ 341 * 242 < 341 * 242 + 1 ∧
    341 * 242 + 1 ≤ 341 * 262 := by decide

/-- For the memory operands of O37, O38, O44, O45 and O46: addresses that can be accessed and addresses that cannot, at the ends of
the ranges; each address is the operand's own. -/
theorem witness_O37_O38_O44_O45_O46_operands :
    accessFault (ea (.abs 0x3FFF) base) base = none ∧ accessFault (ea (.absx 0xFFFF) base) base = none ∧
    accessFault (ea (.abs 0x6000) base) base = none ∧ accessFault (ea (.izy 0x10) mid) mid = none ∧
    accessFault (ea (.abs 0x4000) base) base = some (.addressOutOfBounds 0x4000) ∧
    accessFault (ea (.abs 0x5FFF) base) base = some (.addressOutOfBounds 0x5FFF) ∧
    accessFault (ea (.abs 0x6000) noPrgRam) noPrgRam = some (.addressOutOfBounds 0x6000) ∧
    accessFault (ea (.abs 0x7FFF) ramOff) ramOff = some (.ramDisabled 0x7FFF) ∧
    accessFault (ea (RmwLoc.absx 0x7FFF).loc ramOff) ramOff = some (.ramDisabled 0x7FFF) ∧
    accessFault (ea (RmwLoc.zpx 0xFF).loc mid) mid = none := by decide

theorem witness_O41_O51_O54_inv : Inv mid ∧ ∃ t, exec (.jsr 0x9000) mid = .next t := ⟨mid_inv, _, rfl⟩

theorem witness_O42_both :
    ¬ (base.cfg.params.decimalPolicy = .refuse ∧ base.flags.d = true) ∧
    (decimal.cfg.params.decimalPolicy = .refuse ∧ decimal.flags.d = true) := by decide

theorem witness_O43_completes :
    ¬ (mid.cfg.params.decimalPolicy = .refuse ∧ mid.flags.d = true) ∧ (∃ t, exec (.adc (.imm 0x80)) mid = .next t) ∧
    (∃ t, exec (.sbc (.imm 0x01)) mid = .next t) :=
  ⟨by decide, ⟨_, rfl⟩, ⟨_, rfl⟩⟩

theorem witness_O49_pointers :
    accessFault 0x1FFF base = none ∧ accessFault 0x20FF base = none ∧ accessFault 0x7FFF base = none ∧
    accessFault 0x4000 base = some (.addressOutOfBounds 0x4000) ∧ accessFault 0x5FFF base = some (.addressOutOfBounds 0x5FFF) ∧
    accessFault 0x7FFF ramOff = some (.ramDisabled 0x7FFF) := by decide

theorem witness_O54_brk_and_nmi :
    (∃ t, exec .brk mid = .next t) ∧ Inv midNmi ∧ midNmi.fault = none ∧ midNmi.nmiPending = true ∧
    midNmi.cfg.params.nmiModel = .vblankEdge ∧ ∃ t, step midNmi = .next t :=
  ⟨⟨_, rfl⟩, midNmi_inv, rfl, rfl, rfl, _, rfl⟩

theorem witness_O56_O58_next : ∃ t, exec (.inc (.abs 0x2004)) mid = .next t := ⟨_, rfl⟩

/-- A read-modify-write of the OAM port stores in OAM cell 0xFF and leaves RAM cell 0x10 alone. -/
theorem witness_O57_cells :
    Inv mid ∧ (∃ t, exec (.inc (.abs 0x2004)) mid = .next t) ∧ Cell.ram 0x10 ∉ pushedCells (.inc (.abs 0x2004)) mid ∧
    dataCell (.inc (.abs 0x2004)) mid ≠ some (.ram 0x10) ∧ dataCell (.inc (.abs 0x2004)) mid = some (.oam 0xFF) :=
  ⟨mid_inv, ⟨_, rfl⟩, by decide⟩

theorem witness_O58_devices :
    (dataWriteAddr (.sta (.abs 0x0200)) mid).any reachesMapper = false ∧ touchesPpu (.sta (.abs 0x0200)) mid = false ∧
    mid.cfg.params.nmiModel = .none := by decide

theorem witness_O59_reads :
    busRead 0x7FFF mid = .ok 0xEA mid ∧ (0xEA : Byte) ∉ undocumentedOpcodes ∧ (0xEA : Byte) ∉ mid.cfg.params.omitted ∧
    busRead 0x0010 { mid with ram := [(0x10, 0xFF)] } = .ok 0xFF { mid with ram := [(0x10, 0xFF)] } ∧
    (0xFF : Byte) ∈ undocumentedOpcodes := by decide

/-- What an operation of the driver answers, without the state: the value or the error. -/
def answerOf {α : Type} (r : Access α) : α ⊕ ErrorKind :=
  match r with
  | .ok v _ => .inl v
  | .raise k _ => .inr k

/-- `base` with instructions at the two ends of RAM. -/
def listing : State := { base with ram := [(0x0, 0xD0), (0x1, 0x7F), (0x7FE, 0x6C), (0x7FF, 0x34)] }

/-- Handled opcodes of each length; an instruction that runs into a mirror of RAM. -/
theorem witness_O59_disassembles :
    (opcodeLength 0x00 = 1 ∧ answerOf (disassemble 0x0000 base) = .inl "BRK") ∧
    (opcodeLength 0xD0 = 2 ∧ answerOf (disassemble 0x0000 listing) = .inl "BNE $0081") ∧
    (opcodeLength 0x6C = 3 ∧ answerOf (disassemble 0x07FE listing) = .inl "JMP ($D034)") := by decide

/-- The opcode, the first operand byte and the second operand byte that cannot be read. -/
theorem witness_O59_raises :
    disassemble 0x4000 mid = .raise (.addressOutOfBounds 0x4000) mid ∧
    opcodeLengthAt 0x5FFF mid = .raise (.addressOutOfBounds 0x5FFF) mid ∧
    answerOf (disassemble 0x3FFF (fetchPpu 0x00 0xA9 0x3FFF)) = .inr (.addressOutOfBounds 0x4000) ∧
    answerOf (disassemble 0x3FFE (fetchPpu 0xAD 0x12 0x3FFE)) = .inr (.addressOutOfBounds 0x4000) := by decide

end Sys2Proof.Tests
end

section
/-! PROOF. The mask register and the control bits other than 2 and 7 influence nothing (10_state.md R35, R36): a simulation.
Each operation of the machine takes states that differ only there to such states, with the same value or error; the instruction
forms, the fetch and the step follow. -/
namespace Sys2Proof.Machine

/-- `s` with other values of the mask and control registers. -/
def State.withRenderBits (m c : Byte) (s : State) : State := s.setPpu { s.ppu with mask := m, ctrl := c }

/-- States that differ in render bits only, as one of them rewritten. -/
theorem sameButRenderBits_iff {s t : State} :
    SameButRenderBits s t ↔ ∃ m c, t = s.withRenderBits m c ∧
      c.getLsbD 2 = s.ppu.ctrl.getLsbD 2 ∧ c.getLsbD 7 = s.ppu.ctrl.getLsbD 7 := by
  constructor
  · rintro ⟨h, h2, h7⟩
    exact ⟨_, _, h, h2, h7⟩
  · rintro ⟨m, c, rfl, h2, h7⟩
    exact ⟨rfl, h2, h7⟩

/-- An operation that commutes with rewriting the render bits keeps states alike. -/
theorem SameButRenderBits.map {g : State → State}
    (hg : ∀ m c s, g (s.withRenderBits m c) = (g s).withRenderBits m c) {s t : State} (h : SameButRenderBits s t) :
    SameButRenderBits (g s) (g t) := by
  obtain ⟨m, c, rfl, h2, h7⟩ := sameButRenderBits_iff.mp h
  have hc : (g s).ppu.ctrl = s.ppu.ctrl := congrArg (·.ppu.ctrl) (hg s.ppu.mask s.ppu.ctrl s)
  rw [sameButRenderBits_iff, hc]
  exact ⟨m, c, hg m c s, h2, h7⟩

/-- Two accesses with the same value or error, in states that differ in render bits only. -/
inductive AccessesAlike {α : Type} : Access α → Access α → Prop where
  | ok (v : α) {s t : State} (h : SameButRenderBits s t) : AccessesAlike (.ok v s) (.ok v t)
  | raise (k : ErrorKind) {s t : State} (h : SameButRenderBits s t) : AccessesAlike (.raise k s) (.raise k t)

/-- Two results that stop alike, or go on to states that differ in render bits only. -/
inductive ResultsAlike : Result → Result → Prop where
  | next {s t : State} (h : SameButRenderBits s t) : ResultsAlike (.next s) (.next t)
  | fault (r : Fault) : ResultsAlike (.fault r) (.fault r)

/-! Time -/

theorem advanceDot_withRenderBits (m c : Byte) (p : Ppu) :
    advanceDot { p with mask := m, ctrl := c } = { advanceDot p with mask := m, ctrl := c } := by
  by_cases hc : p.cycle + 1 = 341 <;> by_cases hl : p.scanline + 1 = 262 <;> simp only [advanceDot, hc, hl, if_true, if_false]

/-- The events of a tick read control bit 7 and nothing else of the render bits. -/
theorem vblEvents_withRenderBits {m c : Byte} {s : State} (h7 : c.getLsbD 7 = s.ppu.ctrl.getLsbD 7) :
    vblEvents (s.withRenderBits m c) = (vblEvents s).withRenderBits m c := by
  have h7' : (s.withRenderBits m c).ppu.ctrl.getLsbD 7 = s.ppu.ctrl.getLsbD 7 := h7
  by_cases hset : s.ppu.scanline = 241 ∧ s.ppu.cycle = 1
  · have hset' : (s.withRenderBits m c).ppu.scanline = 241 ∧ (s.withRenderBits m c).ppu.cycle = 1 := hset
    simp only [vblEvents, if_pos hset, if_pos hset', h7']
    rfl
  · have hset' : ¬ ((s.withRenderBits m c).ppu.scanline = 241 ∧ (s.withRenderBits m c).ppu.cycle = 1) := hset
    by_cases hclear : s.ppu.scanline = 261 ∧ s.ppu.cycle = 1
    · have hclear' : (s.withRenderBits m c).ppu.scanline = 261 ∧ (s.withRenderBits m c).ppu.cycle = 1 := hclear
      simp only [vblEvents, if_neg hset, if_neg hset', if_pos hclear, if_pos hclear']
      rfl
    · have hclear' : ¬ ((s.withRenderBits m c).ppu.scanline = 261 ∧ (s.withRenderBits m c).ppu.cycle = 1) := hclear
      simp only [vblEvents, if_neg hset, if_neg hset', if_neg hclear, if_neg hclear']

theorem advanceDot_ctrl (p : Ppu) : (advanceDot p).ctrl = p.ctrl := by
  unfold advanceDot
  split_ifs <;> rfl

theorem tick_ctrl (s : State) : (tick s).ppu.ctrl = s.ppu.ctrl := by
  rw [tick_sameButTime s]

theorem SameButRenderBits.tick {s t : State} (h : SameButRenderBits s t) : SameButRenderBits (tick s) (tick t) := by
  obtain ⟨m, c, rfl, h2, h7⟩ := sameButRenderBits_iff.mp h
  rw [sameButRenderBits_iff, tick_ctrl]
  refine ⟨m, c, ?_, h2, h7⟩
  unfold Machine.tick
  rw [← vblEvents_withRenderBits (by rw [h7, State.setPpu_ppu, advanceDot_ctrl])]
  exact congrArg (fun p => vblEvents (s.setPpu p)) (advanceDot_withRenderBits m c s.ppu)

theorem SameButRenderBits.drain {s t : State} (n : Nat) (h : SameButRenderBits s t) :
    SameButRenderBits (drain n s) (drain n t) := by
  induction n generalizing s t with
  | zero => exact h
  | succ n ih =>
    obtain ⟨m, c, ht, h2, h7⟩ := sameButRenderBits_iff.mp h.tick
    refine ih ?_
    rw [ht]
    exact ⟨rfl, h2, h7⟩

theorem SameButRenderBits.elapse {s t : State} (n : Nat) (h : SameButRenderBits s t) :
    SameButRenderBits (elapse n s) (elapse n t) := by
  obtain ⟨m, c, rfl, h2, h7⟩ := sameButRenderBits_iff.mp h
  exact SameButRenderBits.drain _ ⟨rfl, h2, h7⟩

/-! Accesses -/

theorem incV_withRenderBits {m c : Byte} {p : Ppu} (h2 : c.getLsbD 2 = p.ctrl.getLsbD 2) :
    incV { p with mask := m, ctrl := c } = incV p := by
  simp only [incV, h2]

/-- A register read reads control bit 2 and nothing else of the render bits. -/
theorem ppuRead_alike (r : PpuReg) {s t : State} (h : SameButRenderBits s t) :
    (ppuRead r s).1 = (ppuRead r t).1 ∧ SameButRenderBits (ppuRead r s).2 (ppuRead r t).2 := by
  obtain ⟨m, c, rfl, h2, h7⟩ := sameButRenderBits_iff.mp h
  cases r with
  | data =>
    have hv : incV (s.withRenderBits m c).ppu = incV s.ppu := incV_withRenderBits h2
    by_cases ha : (vramAddr s.ppu).toNat < 0x3F00
    · have ha' : (vramAddr (s.withRenderBits m c).ppu).toNat < 0x3F00 := ha
      simp only [ppuRead, dataRead, if_pos ha, if_pos ha', hv]
      exact ⟨rfl, rfl, h2, h7⟩
    · have ha' : ¬ (vramAddr (s.withRenderBits m c).ppu).toNat < 0x3F00 := ha
      simp only [ppuRead, dataRead, if_neg ha, if_neg ha', hv]
      exact ⟨rfl, rfl, h2, h7⟩
  | ctrl | mask | status | oamAddr | oamData | scroll | addr => exact ⟨rfl, rfl, h2, h7⟩

theorem ppuMemWrite_withRenderBits (m c : Byte) (a : BitVec 14) (v : Byte) (s : State) :
    ppuMemWrite a v (s.withRenderBits m c) = (ppuMemWrite a v s).withRenderBits m c := by
  unfold ppuMemWrite chrWrite
  show (match ppuResolve s.ppu.mirroring a with | .chr n => _ | .ciram i => _ | .palette i => _) = _
  cases ppuResolve s.ppu.mirroring a with
  | chr n =>
    by_cases hr : chrIsRam s.cfg = true
    · have hr' : chrIsRam (s.withRenderBits m c).cfg = true := hr
      simp only [if_pos hr, if_pos hr']
      rfl
    · have hr' : ¬ chrIsRam (s.withRenderBits m c).cfg = true := hr
      simp only [if_neg hr, if_neg hr']
  | ciram i => rfl
  | palette i => rfl

theorem ppuMemWrite_ctrl (a : BitVec 14) (v : Byte) (s : State) : (ppuMemWrite a v s).ppu.ctrl = s.ppu.ctrl := by
  unfold ppuMemWrite chrWrite
  split <;> [split; skip; skip] <;> rfl

theorem dataWrite_withRenderBits {m c : Byte} (v : Byte) {s : State} (h2 : c.getLsbD 2 = s.ppu.ctrl.getLsbD 2) :
    dataWrite v (s.withRenderBits m c) = (dataWrite v s).withRenderBits m c := by
  have hw := ppuMemWrite_withRenderBits m c (vramAddr s.ppu) v (s.setPpu { s.ppu with latch := v })
  have hv : incV ((ppuMemWrite (vramAddr s.ppu) v (s.setPpu { s.ppu with latch := v })).withRenderBits m c).ppu =
      incV (ppuMemWrite (vramAddr s.ppu) v (s.setPpu { s.ppu with latch := v })).ppu :=
    incV_withRenderBits (by rw [h2, ppuMemWrite_ctrl]; rfl)
  unfold dataWrite
  refine (congrArg (fun t : State => t.setPpu { t.ppu with v := incV t.ppu }) hw).trans ?_
  dsimp only
  rw [hv]
  rfl

/-- A register write reads control bits 2 and 7 and nothing else of the render bits. -/
theorem SameButRenderBits.ppuWrite (r : PpuReg) (v : Byte) {s t : State} (h : SameButRenderBits s t) :
    SameButRenderBits (ppuWrite r v s) (ppuWrite r v t) := by
  obtain ⟨m, c, rfl, h2, h7⟩ := sameButRenderBits_iff.mp h
  cases r with
  | ctrl =>
    simp only [Machine.ppuWrite, ctrlWrite, State.withRenderBits, State.setPpu_ppu, h7]
    exact ⟨rfl, rfl, rfl⟩
  | mask | status | oamAddr | oamData => exact ⟨rfl, h2, h7⟩
  | scroll =>
    cases hw : s.ppu.w <;> simp only [Machine.ppuWrite, scrollWrite, State.withRenderBits, State.setPpu_ppu, hw] <;>
      exact ⟨rfl, h2, h7⟩
  | addr =>
    cases hw : s.ppu.w <;> simp only [Machine.ppuWrite, addrWrite, State.withRenderBits, State.setPpu_ppu, hw] <;>
      exact ⟨rfl, h2, h7⟩
  | data =>
    show SameButRenderBits (dataWrite v s) _
    rw [show Machine.ppuWrite .data v (s.withRenderBits m c) = _ from dataWrite_withRenderBits v h2]
    have hc : (dataWrite v s).ppu.ctrl = s.ppu.ctrl := ppuMemWrite_ctrl _ _ _
    exact ⟨rfl, h2.trans (congrArg (·.getLsbD 2) hc.symm), h7.trans (congrArg (·.getLsbD 7) hc.symm)⟩

theorem SameButRenderBits.mapWrite (a : Word) (v : Byte) {s t : State} (h : SameButRenderBits s t) :
    SameButRenderBits (mapWrite a v s) (mapWrite a v t) := by
  obtain ⟨m, c, rfl, h2, h7⟩ := sameButRenderBits_iff.mp h
  by_cases hv : v.getLsbD 7 = true
  · simp only [Machine.mapWrite, if_pos hv]
    exact ⟨rfl, h2, h7⟩
  · by_cases h0 : s.map.shift.getLsbD 0 = true
    · have h0' : (s.withRenderBits m c).map.shift.getLsbD 0 = true := h0
      simp only [Machine.mapWrite, if_neg hv, if_pos h0, if_pos h0']
      cases mapTarget a <;> exact ⟨rfl, h2, h7⟩
    · have h0' : ¬ (s.withRenderBits m c).map.shift.getLsbD 0 = true := h0
      simp only [Machine.mapWrite, if_neg hv, if_neg h0, if_neg h0']
      exact ⟨rfl, h2, h7⟩

/-! The bus -/

theorem busRead_alike (a : Word) {s t : State} (h : SameButRenderBits s t) : AccessesAlike (busRead a s) (busRead a t) := by
  obtain ⟨m, c, rfl, _, _⟩ := sameButRenderBits_iff.mp h
  have hf : accessFault a (s.withRenderBits m c) = accessFault a s := rfl
  unfold busRead
  rw [hf]
  cases accessFault a s with
  | some k => exact .raise k h
  | none =>
    cases resolve a with
    | ppu r =>
      obtain ⟨hv, hu⟩ := ppuRead_alike r h
      dsimp only
      rw [← hv]
      exact .ok _ hu
    | ram i | prgRam i => exact .ok _ h
    | prgRom => exact .ok _ h
    | apuIo | testRegion | cartUnused => exact .raise _ h

theorem busWrite_alike (a : Word) (v : Byte) {s t : State} (h : SameButRenderBits s t) :
    AccessesAlike (busWrite a v s) (busWrite a v t) := by
  obtain ⟨m, c, rfl, h2, h7⟩ := sameButRenderBits_iff.mp h
  have hf : accessFault a (s.withRenderBits m c) = accessFault a s := rfl
  unfold busWrite
  rw [hf]
  cases accessFault a s with
  | some k => exact .raise k h
  | none =>
    cases resolve a with
    | ppu r => exact .ok _ (h.ppuWrite r v)
    | ram i | prgRam i => exact .ok _ ⟨rfl, h2, h7⟩
    | prgRom => exact .ok _ (h.mapWrite a v)
    | apuIo | testRegion | cartUnused => exact .raise _ h

theorem AccessesAlike.andThen {α β : Type} {r r' : Access α} {f f' : α → State → Access β} (h : AccessesAlike r r')
    (hf : ∀ v s t, SameButRenderBits s t → AccessesAlike (f v s) (f' v t)) : AccessesAlike (r.andThen f) (r'.andThen f') := by
  cases h with
  | ok v hs => exact hf v _ _ hs
  | raise k hs => exact .raise k hs

theorem takeFault_alike (k : ErrorKind) {s t : State} (h : SameButRenderBits s t) :
    ResultsAlike (takeFault k s) (takeFault k t) := by
  obtain ⟨m, c, rfl, h2, h7⟩ := sameButRenderBits_iff.mp h
  exact .next ⟨rfl, h2, h7⟩

theorem AccessesAlike.run {α : Type} {r r' : Access α} {f f' : α → State → Result} (h : AccessesAlike r r')
    (hf : ∀ v s t, SameButRenderBits s t → ResultsAlike (f v s) (f' v t)) : ResultsAlike (r.run f) (r'.run f') := by
  cases h with
  | ok v hs => exact hf v _ _ hs
  | raise k hs => exact takeFault_alike k hs

/-! The instruction forms -/

theorem complete_alike (pc : Word) (c : Nat) {s t : State} (h : SameButRenderBits s t) :
    ResultsAlike (complete pc c s) (complete pc c t) := by
  obtain ⟨m, c, rfl, h2, h7⟩ := sameButRenderBits_iff.mp h
  exact .next (SameButRenderBits.elapse _ ⟨rfl, h2, h7⟩)

theorem ea_withRenderBits (m c : Byte) (l : Loc) (s : State) : ea l (s.withRenderBits m c) = ea l s := by
  cases l <;> rfl

theorem readCycles_withRenderBits (m c : Byte) (o : Src) (s : State) :
    readCycles o (s.withRenderBits m c) = readCycles o s := by
  cases o with
  | imm v => rfl
  | mem l => cases l <;> rfl

theorem load_alike (o : Src) {s t : State} (h : SameButRenderBits s t) : AccessesAlike (load o s) (load o t) := by
  cases o with
  | imm v => exact .ok v h
  | mem l =>
    obtain ⟨m, c, rfl, _, _⟩ := sameButRenderBits_iff.mp h
    show AccessesAlike (busRead (ea l s) s) (busRead (ea l (s.withRenderBits m c)) (s.withRenderBits m c))
    rw [ea_withRenderBits]
    exact busRead_alike _ h

theorem readInstr_alike {o : Src} {f : Byte → State → State}
    (hf : ∀ v m c u, f v (u.withRenderBits m c) = (f v u).withRenderBits m c)
    {s t : State} (h : SameButRenderBits s t) : ResultsAlike (readInstr o f s) (readInstr o f t) := by
  obtain ⟨m, c, rfl, _, _⟩ := sameButRenderBits_iff.mp h
  refine (load_alike o h).run fun v u w hu => ?_
  rw [readCycles_withRenderBits]
  exact complete_alike _ _ (hu.map (hf v))

theorem storeInstr_alike (l : Loc) (v : Byte) {s t : State} (h : SameButRenderBits s t) :
    ResultsAlike (storeInstr l v s) (storeInstr l v t) := by
  obtain ⟨m, c, rfl, _, _⟩ := sameButRenderBits_iff.mp h
  unfold storeInstr
  rw [ea_withRenderBits]
  exact (busWrite_alike _ v h).run fun _ u w hu => complete_alike _ _ hu

theorem rmwInstr_alike (l : RmwLoc) (r : Byte → Byte) (g : Flags → Byte → Flags) {s t : State}
    (h : SameButRenderBits s t) : ResultsAlike (rmwInstr l r g s) (rmwInstr l r g t) := by
  obtain ⟨m, c, rfl, _, _⟩ := sameButRenderBits_iff.mp h
  dsimp only [rmwInstr]
  rw [ea_withRenderBits]
  refine (busRead_alike _ h).run fun v u w hu => (busWrite_alike _ (r v) hu).run fun _ u' w' hu' => ?_
  exact complete_alike _ _ (hu'.map (g := fun u => u.setFlags (g u.flags v)) fun _ _ _ => rfl)

theorem shiftInstr_alike (o : ShiftDst) (r : Byte → Byte) (g : Flags → Byte → Flags) {s t : State}
    (h : SameButRenderBits s t) : ResultsAlike (shiftInstr o r g s) (shiftInstr o r g t) := by
  cases o with
  | acc =>
    obtain ⟨m, c, rfl, h2, h7⟩ := sameButRenderBits_iff.mp h
    exact complete_alike _ _ ⟨rfl, h2, h7⟩
  | mem l => exact rmwInstr_alike l r g h

theorem branchInstr_alike (cond : Bool) (off : Byte) {s t : State} (h : SameButRenderBits s t) :
    ResultsAlike (branchInstr cond off s) (branchInstr cond off t) := by
  obtain ⟨m, c, rfl, _, _⟩ := sameButRenderBits_iff.mp h
  cases cond
  · exact complete_alike (s.pc + 2) 2 h
  · exact complete_alike (branchTarget off s) _ h

theorem readIndirect_alike (q : Word) {s t : State} (h : SameButRenderBits s t) :
    AccessesAlike (readIndirect q s) (readIndirect q t) :=
  (busRead_alike q h).andThen fun _ _ _ hu => (busRead_alike _ hu).andThen fun _ _ _ hw => .ok _ hw

/-- ADC and SBC: the decimal trap reads no render bit. -/
theorem decimalInstr_alike {o : Src} {f : Byte → State → State}
    (hf : ∀ v m c u, f v (u.withRenderBits m c) = (f v u).withRenderBits m c)
    {s t : State} (h : SameButRenderBits s t) :
    ResultsAlike (if decimalTrap s then takeFault (.decimalUnsupported s.pc) s else readInstr o f s)
      (if decimalTrap t then takeFault (.decimalUnsupported t.pc) t else readInstr o f t) := by
  obtain ⟨m, c, rfl, _, _⟩ := sameButRenderBits_iff.mp h
  have ht : decimalTrap (s.withRenderBits m c) = decimalTrap s := rfl
  rw [ht]
  split
  · exact takeFault_alike (.decimalUnsupported s.pc) h
  · exact readInstr_alike hf h

/-! Instructions and steps -/

theorem exec_alike (i : Instr) {s t : State} (h : SameButRenderBits s t) : ResultsAlike (exec i s) (exec i t) := by
  obtain ⟨m, c, rfl, h2, h7⟩ := sameButRenderBits_iff.mp h
  cases i with
  | lda o | ldx o | ldy o | and o | ora o | eor o | cmp o | cpx o | cpy o =>
    exact readInstr_alike (fun _ _ _ _ => rfl) h
  | bit l => exact readInstr_alike (o := .mem l) (fun _ _ _ _ => rfl) h
  | adc o | sbc o => exact decimalInstr_alike (fun _ _ _ _ => rfl) h
  | sta l | stx l | sty l => exact storeInstr_alike l _ h
  | inc l => exact rmwInstr_alike l (fun m => m + 1) (fun f m => f.setZN (m + 1)) h
  | dec l => exact rmwInstr_alike l (fun m => m - 1) (fun f m => f.setZN (m - 1)) h
  | asl o => exact shiftInstr_alike o aslResult Flags.asl h
  | lsr o => exact shiftInstr_alike o lsrResult Flags.lsr h
  | rol o => exact shiftInstr_alike o (rolResult s.flags.c) Flags.rol h
  | ror o => exact shiftInstr_alike o (rorResult s.flags.c) Flags.ror h
  | bpl off | bmi off | bvc off | bvs off | bcc off | bcs off | bne off | beq off => exact branchInstr_alike _ off h
  | jmp t =>
    cases t with
    | abs a => exact complete_alike a 3 h
    | ind q => exact (readIndirect_alike q h).run fun w _ _ hu => complete_alike w 5 hu
  | tax | tay | txa | tya | tsx | txs | inx | iny | dex | dey | clc | sec | cli | sei | clv | cld | sed | nop
  | pha | php | pla | plp | jsr a | rts => exact complete_alike _ _ ⟨rfl, h2, h7⟩
  | brk => exact .next (SameButRenderBits.elapse 7 ⟨rfl, h2, h7⟩)
  | rti => exact .next (SameButRenderBits.elapse 6 ⟨rfl, h2, h7⟩)
  | unsupported op => exact takeFault_alike (.unsupportedOpcode op s.pc) h

theorem fetchOperands_alike (op : Byte) (pc : Word) {s t : State} (h : SameButRenderBits s t) :
    AccessesAlike (fetchOperands op pc s) (fetchOperands op pc t) := by
  unfold fetchOperands
  split
  · exact (busRead_alike _ h).andThen fun _ _ _ hu => .ok _ hu
  · exact (busRead_alike _ h).andThen fun _ _ _ hu => (busRead_alike _ hu).andThen fun _ _ _ hw => .ok _ hw
  · exact .ok _ h

theorem fetch_alike {s t : State} (h : SameButRenderBits s t) : AccessesAlike (fetch s) (fetch t) := by
  have hpc : t.pc = s.pc := by rw [h.1]
  unfold fetch
  rw [hpc]
  refine (busRead_alike s.pc h).andThen fun op u w hu => ?_
  obtain ⟨m, c, rfl, _, _⟩ := sameButRenderBits_iff.mp hu
  have hc : (u.withRenderBits m c).cfg = u.cfg := rfl
  have hd : decimalTrap (u.withRenderBits m c) = decimalTrap u := rfl
  rw [hc, hd]
  split
  · exact .ok _ hu
  · split
    · exact .raise _ hu
    · exact fetchOperands_alike op s.pc hu

theorem step_alike {s t : State} (h : SameButRenderBits s t) : ResultsAlike (step s) (step t) := by
  obtain ⟨m, c, rfl, h2, h7⟩ := sameButRenderBits_iff.mp h
  have hf : (s.withRenderBits m c).fault = s.fault := rfl
  unfold step
  rw [hf]
  cases s.fault with
  | some r => exact .fault (.quiescent r)
  | none =>
    show ResultsAlike (if _ then nmiEntry s else _) (if s.cfg.params.nmiModel = .vblankEdge ∧ s.nmiPending = true then _ else _)
    split
    · exact .next (SameButRenderBits.elapse 7 ⟨rfl, h2, h7⟩)
    · exact (fetch_alike h).run fun i _ _ hu => exec_alike i hu

/-- Settles O10, by the simulation `step_alike`. -/
theorem renderBitsInfluenceNothing : Obligations.RenderBitsInfluenceNothing := by
  intro s t h
  have ha := step_alike h
  generalize step s = r at ha ⊢
  generalize step t = r' at ha ⊢
  cases ha with
  | next hs => exact hs
  | fault f => rfl

end Sys2Proof.Machine
end

section
/-! PROOF. The invariant of the state: every construction gives it (10_state.md R42, 70_reset_and_hazards.md R189) and every
step keeps it. Each operation keeps it, and `Kept.step` is the induction. -/
namespace Sys2Proof.Machine

/-! Memories that fit -/

theorem fits_iff {w size : Nat} {m : Memory w} : fits size m = true ↔ m.wf = true ∧ m.within size = true := by
  simp [fits]

theorem fits_write {w size i : Nat} {m : Memory w} (h : fits size m = true) (hi : i < size) (v : BitVec w) :
    fits size (m.write i v) = true := by
  obtain ⟨hwf, hin⟩ := fits_iff.mp h
  exact fits_iff.mpr ⟨Memory.wf_write hwf i v, Memory.within_write hin hi v⟩

theorem fits_ofList {w : Nat} (size : Nat) (vs : List (BitVec w)) : fits size (Memory.ofList size vs) = true :=
  fits_iff.mpr ⟨Memory.wf_ofList size vs, Memory.within_ofList size vs⟩

/-! The controller -/

theorem shiftMarker_marked : 1 ≤ shiftMarker.toNat ∧ shiftMarker.toNat ≤ 31 := by decide

/-- A shift that does not commit keeps the marker at bit 4 or below (10_state.md R29). -/
theorem shiftIn_marked {shift : Byte} (v : Byte) (h : 1 ≤ shift.toNat ∧ shift.toNat ≤ 31) (h0 : shift.getLsbD 0 = false) :
    1 ≤ (shiftIn shift v).toNat ∧ (shiftIn shift v).toNat ≤ 31 := by
  rw [getLsbD_zero] at h0
  have heven : shift.toNat % 2 ≠ 1 := of_decide_eq_false h0
  have hshift : (shift >>> 1).toNat = shift.toNat / 2 := by
    rw [BitVec.toNat_ushiftRight, Nat.shiftRight_eq_div_pow]
  have hbit : ((BitVec.ofBool (v.getLsbD 0)).setWidth 8 <<< 4).toNat < 2 ^ 5 := by
    cases v.getLsbD 0 <;> decide
  have hlt : (shiftIn shift v).toNat < 2 ^ 5 := by
    rw [shiftIn, BitVec.toNat_or]
    exact Nat.or_lt_two_pow (by omega) hbit
  have hle : shift.toNat / 2 ≤ (shiftIn shift v).toNat := by
    rw [shiftIn, BitVec.toNat_or, hshift]
    exact Nat.left_le_or
  omega

/-- Setting PRG mode 3 leaves the mirroring bits alone (20_memory.md R55). -/
theorem mirroringOf_or_prgMode (c : BitVec 5) : mirroringOf (c ||| 0x0C) = mirroringOf c := by
  simp [mirroringOf]

theorem mirroringOf_construction (m : Mirroring) : mirroringOf (0x0C ||| mirroringCode m) = m := by
  cases m <;> rfl

/-! Every operation keeps the invariant -/

theorem Inv.push {s : State} (v : Byte) (h : Inv s) : Inv (push v s) :=
  { h with ramFits := fits_write h.ramFits (stackIndex_lt s.sp) v }

theorem Inv.sameButReads {s t : State} (ht : SameButReads s t) (h : Inv s) : Inv t := by
  rw [ht]
  exact { h with }

theorem Inv.elapse {s : State} (c : Nat) (h : Inv s) : Inv (elapse c s) := by
  obtain ⟨hscanline, hcycle, _⟩ := h.dotInRange
  obtain ⟨hscanline', hcycle'⟩ := elapse_dotInRange (c := c) ⟨hscanline, hcycle⟩
  have hnmi : s.cfg.params.nmiModel = .none → (Machine.elapse c s).nmiPending = false := fun hm =>
    (elapse_nmiPending hm).trans (h.noNmiWithoutModel hm)
  rw [elapse_sameButTime c s]
  exact { h with dotInRange := ⟨hscanline', hcycle', elapse_pending c s⟩, noNmiWithoutModel := hnmi }

theorem Inv.ppuMemWrite {s : State} (a : BitVec 14) (v : Byte) (h : Inv s) : Inv (ppuMemWrite a v s) := by
  have hb := ppuResolve_bounds s.ppu.mirroring a
  unfold Machine.ppuMemWrite chrWrite
  cases hr : ppuResolve s.ppu.mirroring a with
  | chr n =>
    dsimp only
    split
    · next hram =>
      have hi := chrIndex_lt n h.chrLength
      have hfit := h.chrRamFits
      rw [if_pos hram] at hi hfit
      exact { h with chrRamFits := by simpa [hram] using fits_write hfit hi v }
    · exact h
  | ciram i =>
    rw [hr] at hb
    exact { h with ciramFits := fits_write h.ciramFits hb v }
  | palette i =>
    rw [hr] at hb
    exact { h with palFits := fits_write h.palFits hb _ }

/-- Without the NMI model a control write makes no NMI pending (60_exceptions.md R173). -/
theorem ctrlWrite_nmiPending {s : State} (v : Byte) (h : s.cfg.params.nmiModel = .none) :
    (ctrlWrite v s).nmiPending = s.nmiPending := by
  simp [ctrlWrite, h]

theorem Inv.ppuWrite {s : State} (r : PpuReg) (v : Byte) (h : Inv s) : Inv (ppuWrite r v s) := by
  cases r with
  | ctrl =>
    exact { h with noNmiWithoutModel := fun hm => (ctrlWrite_nmiPending (s := s) v hm).trans (h.noNmiWithoutModel hm) }
  | mask | status | oamAddr => exact { h with }
  | oamData => exact { h with oamFits := fits_write h.oamFits s.ppu.oamaddr.isLt v }
  | scroll =>
    show Inv (scrollWrite v s)
    dsimp only [scrollWrite]
    split <;> exact { h with }
  | addr =>
    show Inv (addrWrite v s)
    dsimp only [addrWrite]
    split <;> exact { h with }
  | data =>
    have hlatch : Inv (s.setPpu { s.ppu with latch := v }) := { h with }
    have hmem := hlatch.ppuMemWrite (vramAddr s.ppu) v
    exact { hmem with }

theorem Inv.mapWrite {s : State} (a : Word) (v : Byte) (h : Inv s) : Inv (mapWrite a v s) := by
  unfold Machine.mapWrite
  split
  · exact { h with
      shiftMarked := shiftMarker_marked
      mirroringCopied := h.mirroringCopied.trans (mirroringOf_or_prgMode _).symm }
  · dsimp only
    split
    · cases mapTarget a with
      | control => exact { h with shiftMarked := shiftMarker_marked, mirroringCopied := rfl }
      | chr0 | chr1 | prg => exact { h with shiftMarked := shiftMarker_marked }
    · next h0 =>
      exact { h with shiftMarked := shiftIn_marked v h.shiftMarked (Bool.eq_false_iff.mpr h0) }

theorem hasPrgRam_of_access {a : Word} {i : Nat} {s : State} (hr : resolve a = .prgRam i) (hf : accessFault a s = none) :
    s.cfg.hasPrgRam = true := by
  simp only [accessFault, hr] at hf
  cases hp : s.cfg.hasPrgRam
  · simp [hp] at hf
  · rfl

/-- What a bus write that answers has done, by region (20_memory.md Table R47). -/
theorem busWrite_cases {a : Word} {v : Byte} {s t : State} (h : busWrite a v s = .ok () t) :
    (∃ i, resolve a = .ram i ∧ t = s.setRam (s.ram.write i v)) ∨
    (∃ r, resolve a = .ppu r ∧ t = ppuWrite r v s) ∨
    (∃ i, resolve a = .prgRam i ∧ s.cfg.hasPrgRam = true ∧ t = s.setPrgRam (s.prgRam.write i v)) ∨
    (resolve a = .prgRom ∧ t = mapWrite a v s) := by
  have hf := busWrite_ok_iff.mp ⟨t, h⟩
  simp only [busWrite, hf] at h
  cases hr : resolve a with
  | ram i => rw [hr] at h; cases h; exact .inl ⟨i, rfl, rfl⟩
  | ppu r => rw [hr] at h; cases h; exact .inr (.inl ⟨r, rfl, rfl⟩)
  | prgRam i =>
    have hp := hasPrgRam_of_access hr hf
    rw [hr] at h; cases h; exact .inr (.inr (.inl ⟨i, rfl, hp, rfl⟩))
  | prgRom => rw [hr] at h; cases h; exact .inr (.inr (.inr ⟨rfl, rfl⟩))
  | apuIo | testRegion | cartUnused => rw [hr] at h; cases h

theorem Inv.busWrite {a : Word} {v : Byte} {s t : State} (h : Inv s) (hw : busWrite a v s = .ok () t) : Inv t := by
  rcases busWrite_cases hw with ⟨i, hr, rfl⟩ | ⟨r, _, rfl⟩ | ⟨i, hr, hp, rfl⟩ | ⟨_, rfl⟩
  · exact { h with ramFits := fits_write h.ramFits (resolve_ram_lt hr) v }
  · exact h.ppuWrite r v
  · have hi : i < if s.cfg.hasPrgRam then 8192 else 0 := by rw [if_pos hp]; exact resolve_prgRam_lt hr
    exact { h with prgRamFits := fits_write h.prgRamFits hi v }
  · exact h.mapWrite a v

theorem kept_inv : Kept Inv where
  regs _ _ _ _ _ _ _ h := { h with }
  push v _ h := h.push v
  read r s h := h.sameButReads (ppuRead_sameButReads r s)
  write _ _ _ _ h hw := h.busWrite hw
  time c _ h := h.elapse c
  fault _ _ h := { h with }

/-- Settles O14, by the induction over operations. -/
theorem stepKeepsWellFormedState : Obligations.StepKeepsWellFormedState := by
  intro s t h hs
  exact kept_inv.step (fun _ hu => { hu with noNmiWithoutModel := fun _ => rfl }) h hs

/-! Construction -/

/-- What an image that passes the construction checks is like (70_reset_and_hazards.md R189). -/
theorem of_imageError_eq_none {img : Image} (h : imageError img = none) :
    1 ≤ img.prgBanks.val ∧ img.prgRom.length = img.prgBanks.val * 16384 ∧ img.chrRom.length % 8192 = 0 := by
  unfold imageError at h
  split_ifs at h with hprg hchr
  rw [not_or, not_lt, not_not] at hprg
  exact ⟨hprg.1, hprg.2, not_not.mp hchr⟩

theorem construct_eq_ok {img : Image} {params : Params} {d : PowerOn} {s : State} (h : construct img params d = .ok s) :
    imageError img = none ∧ s = boot (built (configOf img params) d) := by
  unfold construct at h
  cases he : imageError img with
  | some k => rw [he] at h; cases h
  | none => rw [he] at h; cases h; exact ⟨rfl, rfl⟩

theorem inv_built {img : Image} (params : Params) (d : PowerOn) (h : imageError img = none) :
    Inv (built (configOf img params) d) := by
  obtain ⟨hbanks, hprg, hchr⟩ := of_imageError_eq_none h
  have habsent (b : Bool) (vs : List Byte) :
      fits (if b then 8192 else 0) (if b then Memory.ofList 8192 vs else []) = true := by
    cases b
    · rfl
    · exact fits_ofList 8192 vs
  exact
    { ramFits := fits_ofList _ _
      prgRamFits := habsent _ _
      chrRamFits := habsent _ _
      prgRomFits := hprg ▸ fits_ofList _ _
      chrRomFits := fits_ofList _ _
      oamFits := fits_ofList _ _
      ciramFits := fits_ofList _ _
      palFits := fits_ofList _ _
      dotInRange := ⟨le_rfl, Nat.zero_le _, rfl⟩
      shiftMarked := shiftMarker_marked
      mirroringCopied := (mirroringOf_construction _).symm
      noNmiWithoutModel := fun _ => rfl
      banksInDomain := ⟨hbanks, Nat.lt_succ_iff.mp img.prgBanks.isLt⟩
      chrLength := hchr }

/-- Settles O16: the built state has the invariant, and boot writes PC and CYC only. -/
theorem constructedStateIsWellFormed : Obligations.ConstructedStateIsWellFormed := by
  intro img params d s h
  obtain ⟨he, rfl⟩ := construct_eq_ok h
  have hb := inv_built params d he
  exact { hb with }

/-- Settles O15: the state after reset is a constructed one. -/
theorem resetStateIsWellFormed : Obligations.ResetStateIsWellFormed :=
  constructedStateIsWellFormed _ _ _ _ reset_is_constructed

end Sys2Proof.Machine
end

section
/-! PROOF. What construction and boot leave in every register, flag, memory and device register (10_state.md R42,
70_reset_and_hazards.md R190, R192). -/
namespace Sys2Proof.Machine

/-- The cell of a drawn memory holds its draw. -/
theorem read_ofList_of_getElem? {w size k : Nat} {vs : List (BitVec w)} {v : BitVec w} (hk : k < size)
    (h : vs[k]? = some v) : (Memory.ofList size vs).read k = v := by
  rw [Memory.read_ofList size k vs hk, List.getD_eq_getElem?_getD, h, Option.getD_some]

/-- The cell of an image holds its byte. -/
theorem read_image {k : Nat} {vs : List Byte} {v : Byte} (h : vs[k]? = some v) :
    (Memory.ofList vs.length vs).read k = v :=
  read_ofList_of_getElem? (List.getElem?_eq_some_iff.mp h).1 h

/-- Construction puts the controller in PRG mode 3 (10_state.md R42). -/
theorem prgMode_built (c : Config) (d : PowerOn) : prgMode (built c d).map = 3 := by
  show (0x0C ||| mirroringCode c.mirrorInit).extractLsb' 2 2 = 3
  cases c.mirrorInit <;> rfl

/-- In PRG mode 3 the addresses 0xC000-0xFFFF show the last bank (20_memory.md R59). -/
theorem prgOffset_lastBank {a : Word} {s : State} (hmode : prgMode s.map = 3) (ha : 0xC000 ≤ a.toNat) :
    prgOffset a s = (s.cfg.prgBanks.val - 1) * 16384 + a.toNat % 16384 := by
  have hhigh : prgHighBank s.cfg.prgBanks.val s.map = s.cfg.prgBanks.val - 1 := by
    rw [prgHighBank, hmode]
    rfl
  rw [prgOffset, prgBank, if_neg (Nat.not_lt.mpr ha), hhigh]

/-- A read of 0xC000-0xFFFF in a built state gives a byte of the image's last bank. -/
theorem prgRead_built {img : Image} (params : Params) (d : PowerOn) {a : Word} {v : Byte} (ha : 0xC000 ≤ a.toNat)
    (h : img.prgRom[(img.prgBanks.val - 1) * 16384 + a.toNat % 16384]? = some v) :
    prgRead a (built (configOf img params) d) = v := by
  rw [prgRead, prgOffset_lastBank (prgMode_built _ d) ha]
  exact read_image h

/-- The low byte of a built state's reset vector is the fourth byte from the image's end, the high byte the third. -/
theorem readVector_built {img : Image} (params : Params) (d : PowerOn) (he : imageError img = none) :
    ∃ lo hi : Byte, img.prgRom[img.prgBanks.val * 16384 - 4]? = some lo ∧
      img.prgRom[img.prgBanks.val * 16384 - 3]? = some hi ∧
      readVector resetVector (built (configOf img params) d) = mkWord hi lo := by
  obtain ⟨hbanks, hlen, _⟩ := of_imageError_eq_none he
  have byte (a : Word) (k : Nat) (ha : 0xC000 ≤ a.toNat) (hk : a.toNat % 16384 = 16384 - k) (h0 : 1 ≤ k) (h1 : k ≤ 16384) :
      ∃ v, img.prgRom[img.prgBanks.val * 16384 - k]? = some v ∧ prgRead a (built (configOf img params) d) = v := by
    have hi : img.prgBanks.val * 16384 - k < img.prgRom.length := by omega
    have hoff : (img.prgBanks.val - 1) * 16384 + a.toNat % 16384 = img.prgBanks.val * 16384 - k := by omega
    refine ⟨_, List.getElem?_eq_getElem hi, prgRead_built params d ha ?_⟩
    rw [hoff]
    exact List.getElem?_eq_getElem hi
  obtain ⟨lo, hlo, hrlo⟩ := byte resetVector 4 (by decide) (by decide) (by decide) (by decide)
  obtain ⟨hi, hhi, hrhi⟩ := byte (resetVector + 1) 3 (by decide) (by decide) (by decide) (by decide)
  exact ⟨lo, hi, hlo, hhi, by rw [readVector, hrlo, hrhi]⟩

theorem toNat_controlOfMirroring (m : Mirroring) :
    (0x0C ||| mirroringCode m).toNat = 0x0C + (match m with
      | .oneScreenLower => 0 | .oneScreenUpper => 1 | .vertical => 2 | .horizontal => 3) := by
  cases m <;> rfl

/-- Settles O18: the reset vector by `readVector_built`, the memories by what a memory built from a list reads. -/
theorem constructedStateValues : Obligations.ConstructedStateValues := by
  intro img params d s h
  obtain ⟨he, rfl⟩ := construct_eq_ok h
  refine ⟨⟨rfl, rfl, rfl, rfl, rfl⟩, readVector_built params d he, ⟨rfl, rfl, rfl⟩, ?ram, ?hasPrgRam, ?prgRam, ?chrRam,
    ⟨rfl, rfl, rfl, rfl⟩, ?control, ⟨rfl, rfl, rfl, rfl, rfl⟩, ⟨rfl, rfl, rfl⟩, ⟨rfl, rfl, rfl, rfl, rfl, rfl, rfl⟩,
    ?oam, ?ciram, ?pal, ⟨rfl, rfl, rfl⟩, ?prgRom, ?chrRom⟩
  case ram | oam | ciram | pal => exact fun k v hk hv => read_ofList_of_getElem? hk hv
  case hasPrgRam => exact beq_iff_eq
  case prgRam =>
    intro k v hu hk hv
    have hp : (configOf img params).hasPrgRam = true := beq_iff_eq.mpr hu
    show (if _ then _ else _ : Memory 8).read k = v
    rw [if_pos hp]
    exact read_ofList_of_getElem? hk hv
  case chrRam =>
    intro k v hc hk hv
    have hram : chrIsRam (configOf img params) = true := by rw [chrIsRam, configOf, hc]; rfl
    show (if _ then _ else _ : Memory 8).read k = v
    rw [if_pos hram]
    exact read_ofList_of_getElem? hk hv
  case control => exact toNat_controlOfMirroring img.mirrorInit
  case prgRom | chrRom => exact fun k v hv => read_image hv

end Sys2Proof.Machine
end

section
/-! PROOF. A step runs exactly when no fault is recorded (10_state.md R24, 40_dispatch.md R97, 60_exceptions.md R170). -/
namespace Sys2Proof.Machine

theorem exec_next (i : Instr) (s : State) : ∃ t, exec i s = .next t := by
  cases exec_ends i s with
  | completes c u _ _ _ eq => exact ⟨_, eq⟩
  | faults k t _ _ eq => exact ⟨_, eq⟩

theorem step_of_fault {s : State} {r : FaultRecord} (h : s.fault = some r) : step s = .fault (.quiescent r) := by
  rw [step, h]

theorem step_next_of_no_fault {s : State} (h : s.fault = none) : ∃ t, step s = .next t := by
  rw [step, h]
  dsimp only
  split
  · exact ⟨_, rfl⟩
  · cases fetch s with
    | ok i u => exact exec_next i u
    | raise k u => exact ⟨_, rfl⟩

/-- A machine that stops at its first step stops in every run. -/
theorem run_of_step_fault (M : Host.Core) {s : M.State} {r : M.Fault} (h : M.step s = .fault r) (n : Nat) :
    M.run (n + 1) s = .fault r := by
  rw [Host.Core.run, h]

/-- Settles O7. -/
theorem stepRunsExactlyWithoutFault : Obligations.StepRunsExactlyWithoutFault := by
  refine ⟨fun s h => step_next_of_no_fault h, fun s r h => ⟨step_of_fault h, fun n => ?_⟩⟩
  exact run_of_step_fault core (step_of_fault h) n

end Sys2Proof.Machine
end

section
/-! PROOF. The frame of registers and flags (10_state.md R14 to R16, Table R19): bus accesses, faults and time change none, so
only an instruction's own effect counts. -/
namespace Sys2Proof.Machine

/-- A clause about an instruction that does not write holds of one that does. -/
theorem of_writer {writes : Bool} {p : Prop} (h : writes = true) : writes = false → p := by
  intro h'
  exact absurd (h.symm.trans h') (by decide)

/-- From the flags `f` to `g` a flag has changed only if `i` is one of its writers (Table R19). -/
structure FlagFrame (i : Instr) (f g : Flags) : Prop where
  nz : writesNZ i = false → g.n = f.n ∧ g.z = f.z
  v : writesV i = false → g.v = f.v
  b : writesB i = false → g.b = f.b
  d : writesD i = false → g.d = f.d
  irq : writesI i = false → g.i = f.i
  c : writesC i = false → g.c = f.c

/-- From `s` to `t` a register or flag has changed only if `i` is one of its writers. -/
structure RegisterFrame (i : Instr) (s t : State) : Prop where
  a : writesA i = false → t.a = s.a
  x : writesX i = false → t.x = s.x
  y : writesY i = false → t.y = s.y
  sp : writesSp i = false → t.sp = s.sp
  flags : FlagFrame i s.flags t.flags

/-- No register and no flag differs. -/
structure SameRegisters (s t : State) : Prop where
  a : t.a = s.a
  x : t.x = s.x
  y : t.y = s.y
  sp : t.sp = s.sp
  flags : t.flags = s.flags

theorem SameButReads.sameRegisters {s t : State} (h : SameButReads s t) : SameRegisters s t := by
  constructor <;> rw [h]

theorem SameButWrites.sameRegisters {s t : State} (h : SameButWrites s t) : SameRegisters s t := by
  constructor <;> rw [h]

theorem sameRegisters_elapse_setPc (c : Nat) (pc : Word) (s : State) : SameRegisters s (elapse c (s.setPc pc)) := by
  constructor <;> simp

section
variable {i : Instr} {s t u : State}

theorem FlagFrame.refl (f : Flags) : FlagFrame i f f :=
  ⟨fun _ => ⟨rfl, rfl⟩, fun _ => rfl, fun _ => rfl, fun _ => rfl, fun _ => rfl, fun _ => rfl⟩

theorem FlagFrame.trans {f g k : Flags} (h : FlagFrame i f g) (h' : FlagFrame i g k) : FlagFrame i f k where
  nz hw := ⟨(h'.nz hw).1.trans (h.nz hw).1, (h'.nz hw).2.trans (h.nz hw).2⟩
  v hw := (h'.v hw).trans (h.v hw)
  b hw := (h'.b hw).trans (h.b hw)
  d hw := (h'.d hw).trans (h.d hw)
  irq hw := (h'.irq hw).trans (h.irq hw)
  c hw := (h'.c hw).trans (h.c hw)

theorem FlagFrame.setZN (hw : writesNZ i = true) (f : Flags) (v : Byte) : FlagFrame i f (f.setZN v) :=
  ⟨of_writer hw, fun _ => rfl, fun _ => rfl, fun _ => rfl, fun _ => rfl, fun _ => rfl⟩

theorem SameRegisters.registerFrame (h : SameRegisters s t) : RegisterFrame i s t :=
  ⟨fun _ => h.a, fun _ => h.x, fun _ => h.y, fun _ => h.sp, h.flags ▸ .refl _⟩

theorem RegisterFrame.trans (h : RegisterFrame i s t) (h' : RegisterFrame i t u) : RegisterFrame i s u where
  a hw := (h'.a hw).trans (h.a hw)
  x hw := (h'.x hw).trans (h.x hw)
  y hw := (h'.y hw).trans (h.y hw)
  sp hw := (h'.sp hw).trans (h.sp hw)
  flags := h.flags.trans h'.flags

/-! One writer of a register or of the flags, by an instruction that may write it -/

theorem RegisterFrame.setA (hw : writesA i = true) (v : Byte) : RegisterFrame i s (s.setA v) :=
  ⟨of_writer hw, fun _ => rfl, fun _ => rfl, fun _ => rfl, .refl _⟩

theorem RegisterFrame.setX (hw : writesX i = true) (v : Byte) : RegisterFrame i s (s.setX v) :=
  ⟨fun _ => rfl, of_writer hw, fun _ => rfl, fun _ => rfl, .refl _⟩

theorem RegisterFrame.setY (hw : writesY i = true) (v : Byte) : RegisterFrame i s (s.setY v) :=
  ⟨fun _ => rfl, fun _ => rfl, of_writer hw, fun _ => rfl, .refl _⟩

theorem RegisterFrame.setSp (hw : writesSp i = true) (v : Byte) : RegisterFrame i s (s.setSp v) :=
  ⟨fun _ => rfl, fun _ => rfl, fun _ => rfl, of_writer hw, .refl _⟩

theorem RegisterFrame.setFlags {f : Flags} (h : FlagFrame i s.flags f) : RegisterFrame i s (s.setFlags f) :=
  ⟨fun _ => rfl, fun _ => rfl, fun _ => rfl, fun _ => rfl, h⟩

/-- A push writes SP. -/
theorem RegisterFrame.push (hw : writesSp i = true) (v : Byte) : RegisterFrame i s (push v s) :=
  ⟨fun _ => rfl, fun _ => rfl, fun _ => rfl, of_writer hw, .refl _⟩

theorem RegisterFrame.push16 (hw : writesSp i = true) (v : Word) : RegisterFrame i s (push16 v s) :=
  (RegisterFrame.push hw _).trans (.push hw _)

theorem RegisterFrame.setPc (pc : Word) : RegisterFrame i s (s.setPc pc) :=
  SameRegisters.registerFrame ⟨rfl, rfl, rfl, rfl, rfl⟩

/-- Taking an interrupt writes SP and I. -/
theorem RegisterFrame.enterInterrupt {ret : Word} {b : Bool} {vector : Word} (hsp : writesSp i = true)
    (hi : writesI i = true) : RegisterFrame i s (enterInterrupt ret b vector s) := by
  have hpush : RegisterFrame i s (Machine.push (s.flags.pack b) (Machine.push16 ret s)) :=
    (RegisterFrame.push16 hsp ret).trans (.push hsp _)
  refine hpush.trans (.trans (.setFlags ?_) (.setPc _))
  exact ⟨fun _ => ⟨rfl, rfl⟩, fun _ => rfl, fun _ => rfl, fun _ => rfl, of_writer hi, fun _ => rfl⟩

theorem RegisterFrame.refl (s : State) : RegisterFrame i s s := SameRegisters.registerFrame ⟨rfl, rfl, rfl, rfl, rfl⟩

/-! The instruction forms -/

theorem RegisterFrame.elapse (c : Nat) (h : RegisterFrame i s t) : RegisterFrame i s (elapse c t) :=
  h.trans (sameRegisters_elapse_setPc c t.pc t).registerFrame

theorem RegisterFrame.complete (pc : Word) (c : Nat) (h : RegisterFrame i s t) :
    KeptBy (RegisterFrame i s) (complete pc c t) := by
  rintro u ⟨⟩
  exact h.trans (sameRegisters_elapse_setPc c pc t).registerFrame

theorem RegisterFrame.takeFault (k : ErrorKind) (h : SameRegisters s t) :
    KeptBy (RegisterFrame i s) (takeFault k t) := by
  rintro u ⟨⟩
  exact SameRegisters.registerFrame ⟨h.a, h.x, h.y, h.sp, h.flags⟩

theorem RegisterFrame.readInstr {o : Src} {f : Byte → State → State} (hf : ∀ v u, RegisterFrame i u (f v u)) :
    KeptBy (RegisterFrame i s) (readInstr o f s) := by
  rcases readInstr_cases o f s with ⟨v, u, _, hu, h⟩ | ⟨l, k, _, _, h⟩ <;> rw [h]
  · exact (hu.sameRegisters.registerFrame.trans (hf v u)).complete _ _
  · exact RegisterFrame.takeFault k ⟨rfl, rfl, rfl, rfl, rfl⟩

theorem RegisterFrame.storeInstr {l : Loc} {v : Byte} : KeptBy (RegisterFrame i s) (storeInstr l v s) := by
  rcases storeInstr_cases l v s with ⟨u, _, hu, h⟩ | ⟨k, _, h⟩ <;> rw [h]
  · exact hu.sameRegisters.registerFrame.complete _ _
  · exact RegisterFrame.takeFault k ⟨rfl, rfl, rfl, rfl, rfl⟩

theorem RegisterFrame.rmwInstr {l : RmwLoc} {r : Byte → Byte} {g : Flags → Byte → Flags}
    (hg : ∀ v u, RegisterFrame i u (u.setFlags (g u.flags v))) : KeptBy (RegisterFrame i s) (rmwInstr l r g s) := by
  rcases rmwInstr_cases l r g s with ⟨v, u, w, _, hu, _, hw, h⟩ | ⟨k, _, h⟩ <;> rw [h]
  · exact (hu.sameRegisters.registerFrame.trans (hw.sameRegisters.registerFrame.trans (hg v w))).complete _ _
  · exact RegisterFrame.takeFault k ⟨rfl, rfl, rfl, rfl, rfl⟩

theorem RegisterFrame.branchInstr {cond : Bool} {off : Byte} : KeptBy (RegisterFrame i s) (branchInstr cond off s) := by
  rcases branchInstr_cases cond off s with ⟨_, h⟩ | ⟨_, h⟩ <;> rw [h] <;> exact (RegisterFrame.refl s).complete _ _

theorem RegisterFrame.readIndirect {q : Word} :
    KeptBy (RegisterFrame i s) ((readIndirect q s).run fun w t => Machine.complete w 5 t) := by
  rcases readIndirect_cases q s with ⟨w, u, h, hu⟩ | ⟨k, u, h, hu⟩ <;> rw [h]
  · exact hu.sameRegisters.registerFrame.complete w 5
  · exact RegisterFrame.takeFault k hu.sameRegisters

end

/-- ADC and SBC: the decimal trap, then a reading instruction. -/
theorem RegisterFrame.decimalInstr {i : Instr} {s : State} {o : Src} {f : Byte → State → State}
    (hf : ∀ v u, RegisterFrame i u (f v u)) :
    KeptBy (RegisterFrame i s)
      (if decimalTrap s then Machine.takeFault (.decimalUnsupported s.pc) s else Machine.readInstr o f s) := by
  split
  · exact RegisterFrame.takeFault _ ⟨rfl, rfl, rfl, rfl, rfl⟩
  · exact RegisterFrame.readInstr hf

/-- The frame of each instruction. The clauses about flags stand in the order N and Z, V, B, D, I, C, each `of_writer` where Table R19
names the instruction. -/
theorem exec_registerFrame (i : Instr) (s : State) : KeptBy (RegisterFrame i s) (exec i s) := by
  cases i with
  | lda o | and o | ora o | eor o => exact .readInstr fun _ _ => (RegisterFrame.setA rfl _).trans (.setFlags (.setZN rfl _ _))
  | ldx o => exact .readInstr fun _ _ => (RegisterFrame.setX rfl _).trans (.setFlags (.setZN rfl _ _))
  | ldy o => exact .readInstr fun _ _ => (RegisterFrame.setY rfl _).trans (.setFlags (.setZN rfl _ _))
  | cmp o | cpx o | cpy o =>
    exact .readInstr fun _ _ => .setFlags ⟨of_writer rfl, fun _ => rfl, fun _ => rfl, fun _ => rfl, fun _ => rfl, of_writer rfl⟩
  | bit l =>
    exact .readInstr (o := .mem l) fun _ _ =>
      .setFlags ⟨of_writer rfl, of_writer rfl, fun _ => rfl, fun _ => rfl, fun _ => rfl, fun _ => rfl⟩
  | adc o | sbc o =>
    exact .decimalInstr fun _ _ => (RegisterFrame.setA rfl _).trans <|
      .setFlags ⟨of_writer rfl, of_writer rfl, fun _ => rfl, fun _ => rfl, fun _ => rfl, of_writer rfl⟩
  | sta l | stx l | sty l => exact .storeInstr
  | inc l =>
    exact .rmwInstr (l := l) (r := fun m => m + 1) (g := fun f m => f.setZN (m + 1)) fun _ _ => .setFlags (.setZN rfl _ _)
  | dec l =>
    exact .rmwInstr (l := l) (r := fun m => m - 1) (g := fun f m => f.setZN (m - 1)) fun _ _ => .setFlags (.setZN rfl _ _)
  | asl o | lsr o | rol o | ror o =>
    cases o with
    | acc =>
      refine .complete _ _ ((RegisterFrame.setA rfl _).trans (.setFlags ?_))
      exact ⟨of_writer rfl, fun _ => rfl, fun _ => rfl, fun _ => rfl, fun _ => rfl, of_writer rfl⟩
    | mem l =>
      exact .rmwInstr fun _ _ =>
        .setFlags ⟨of_writer rfl, fun _ => rfl, fun _ => rfl, fun _ => rfl, fun _ => rfl, of_writer rfl⟩
  | bpl off | bmi off | bvc off | bvs off | bcc off | bcs off | bne off | beq off => exact .branchInstr
  | jmp t =>
    cases t with
    | abs a => exact (RegisterFrame.refl s).complete a 3
    | ind q => exact .readIndirect
  | txa | tya => exact .complete _ _ ((RegisterFrame.setA rfl _).trans (.setFlags (.setZN rfl _ _)))
  | tax | tsx | inx | dex => exact .complete _ _ ((RegisterFrame.setX rfl _).trans (.setFlags (.setZN rfl _ _)))
  | tay | iny | dey => exact .complete _ _ ((RegisterFrame.setY rfl _).trans (.setFlags (.setZN rfl _ _)))
  | txs => exact .complete _ _ (.setSp rfl _)
  | clc | sec =>
    exact .complete _ _ (.setFlags ⟨fun _ => ⟨rfl, rfl⟩, fun _ => rfl, fun _ => rfl, fun _ => rfl, fun _ => rfl, of_writer rfl⟩)
  | cli | sei =>
    exact .complete _ _ (.setFlags ⟨fun _ => ⟨rfl, rfl⟩, fun _ => rfl, fun _ => rfl, fun _ => rfl, of_writer rfl, fun _ => rfl⟩)
  | cld | sed =>
    exact .complete _ _ (.setFlags ⟨fun _ => ⟨rfl, rfl⟩, fun _ => rfl, fun _ => rfl, of_writer rfl, fun _ => rfl, fun _ => rfl⟩)
  | clv =>
    exact .complete _ _ (.setFlags ⟨fun _ => ⟨rfl, rfl⟩, of_writer rfl, fun _ => rfl, fun _ => rfl, fun _ => rfl, fun _ => rfl⟩)
  | nop => exact (RegisterFrame.refl s).complete _ _
  | pha | php => exact .complete _ _ (.push rfl _)
  | pla =>
    have hsp : RegisterFrame .pla s (s.setSp (s.sp + 1)) := .setSp rfl _
    exact .complete _ _ (hsp.trans ((RegisterFrame.setA rfl _).trans (.setFlags (.setZN rfl _ _))))
  | plp =>
    refine .complete _ _ ((RegisterFrame.setSp rfl _).trans (.setFlags ?_))
    exact ⟨of_writer rfl, of_writer rfl, of_writer rfl, of_writer rfl, of_writer rfl, of_writer rfl⟩
  | jsr a => exact .complete _ _ (.push16 rfl _)
  | rts => exact .complete _ _ ((RegisterFrame.setSp rfl _).trans (.setSp rfl _))
  | brk =>
    rintro t ⟨⟩
    exact RegisterFrame.elapse 7 (.enterInterrupt rfl rfl)
  | rti =>
    rintro t ⟨⟩
    refine RegisterFrame.elapse 6 ⟨fun _ => rfl, fun _ => rfl, fun _ => rfl, of_writer rfl, ?_⟩
    exact ⟨of_writer rfl, of_writer rfl, of_writer rfl, of_writer rfl, of_writer rfl, of_writer rfl⟩
  | unsupported op => exact .takeFault _ ⟨rfl, rfl, rfl, rfl, rfl⟩

/-- Settles O56, by the frame of the instruction's form and of its own effect. -/
theorem registerAndFlagFrame : Obligations.RegisterAndFlagFrame := by
  intro i s t h
  obtain ⟨ha, hx, hy, hsp, hnz, hv, hb, hd, hi, hc⟩ := exec_registerFrame i s t h
  exact ⟨ha, hx, hy, hsp, hnz, hv, hb, hd, hi, hc⟩

end Sys2Proof.Machine
end

section
/-! PROOF. The frame of the devices (10_state.md R26, 20_memory.md R52, R57, R64, 60_exceptions.md R168): what an instruction's own
bus accesses can reach. -/
namespace Sys2Proof.Machine

/-! The states an instruction passes through -/

/-- The instruction `i` at `s` may read `a` through the bus: its data read, or a pointer read of JMP indirect. -/
inductive ReadsAt (i : Instr) (s : State) : Word → Prop where
  | data {a : Word} (h : dataReadAddr i s = some a) : ReadsAt i s a
  | pointerLow {q : Word} (h : i = .jmp (.ind q)) : ReadsAt i s q
  | pointerHigh {q : Word} (h : i = .jmp (.ind q)) : ReadsAt i s (mkWord (hiByte q) (loByte q + 1))

/-- The states that the operations of `i` at `s` can lead to: writes of registers and flags, pushes, bus reads of the addresses
that `i` reads, bus writes of the address that it writes, the passing of time, and the recording of a fault. -/
inductive Reaches (i : Instr) (s : State) : State → Prop where
  | start : Reaches i s s
  | regs {t : State} (a x y sp : Byte) (pc : Word) (f : Flags) (h : Reaches i s t) :
      Reaches i s { t with a := a, x := x, y := y, sp := sp, pc := pc, flags := f }
  | push {t : State} (v : Byte) (h : Reaches i s t) : Reaches i s (push v t)
  | read {a : Word} {v : Byte} {t u : State} (ha : ReadsAt i s a) (h : Reaches i s t)
      (hb : busRead a t = .ok v u) : Reaches i s u
  | write {a : Word} {v : Byte} {t u : State} (ha : dataWriteAddr i s = some a) (h : Reaches i s t)
      (hb : busWrite a v t = .ok () u) : Reaches i s u
  | time {t : State} (c : Nat) (h : Reaches i s t) : Reaches i s (elapse c t)
  | fault {t : State} (r : Option FaultRecord) (h : Reaches i s t) : Reaches i s (t.setFault r)

section
variable {i : Instr} {s t : State}

theorem Reaches.complete (pc : Word) (c : Nat) (h : Reaches i s t) : KeptBy (Reaches i s) (complete pc c t) := by
  rintro u ⟨⟩
  exact (h.regs t.a t.x t.y t.sp pc t.flags).time c

theorem Reaches.takeFault (k : ErrorKind) (h : Reaches i s t) : KeptBy (Reaches i s) (takeFault k t) := by
  rintro u ⟨⟩
  exact h.fault _

theorem Reaches.readInstr {o : Src} {f : Byte → State → State} (ho : ∀ l, o = .mem l → dataReadAddr i s = some (ea l s))
    (hf : ∀ v t, Reaches i s t → Reaches i s (f v t)) : KeptBy (Reaches i s) (readInstr o f s) := by
  rcases readInstr_cases o f s with ⟨v, t, hl, _, h⟩ | ⟨l, k, _, _, h⟩ <;> rw [h]
  · have ht : Reaches i s t := by
      cases o with
      | imm w => cases hl; exact .start
      | mem l => exact .read (.data (ho l rfl)) .start hl
    exact (hf v t ht).complete _ _
  · exact Reaches.start.takeFault k

theorem Reaches.storeInstr {l : Loc} {v : Byte} (hl : dataWriteAddr i s = some (ea l s)) :
    KeptBy (Reaches i s) (storeInstr l v s) := by
  rcases storeInstr_cases l v s with ⟨t, hw, _, h⟩ | ⟨k, _, h⟩ <;> rw [h]
  · exact (Reaches.start.write hl hw).complete _ _
  · exact Reaches.start.takeFault k

theorem Reaches.rmwInstr {l : RmwLoc} {r : Byte → Byte} {g : Flags → Byte → Flags}
    (hr : dataReadAddr i s = some (ea l.loc s)) (hw : dataWriteAddr i s = some (ea l.loc s)) :
    KeptBy (Reaches i s) (rmwInstr l r g s) := by
  rcases rmwInstr_cases l r g s with ⟨v, t, u, hb, _, hb', _, h⟩ | ⟨k, _, h⟩ <;> rw [h]
  · have hu : Reaches i s u := (Reaches.start.read (.data hr) hb).write hw hb'
    exact (hu.regs u.a u.x u.y u.sp u.pc (g u.flags v)).complete _ _
  · exact Reaches.start.takeFault k

theorem Reaches.branchInstr {cond : Bool} {off : Byte} : KeptBy (Reaches i s) (branchInstr cond off s) := by
  rcases branchInstr_cases cond off s with ⟨_, h⟩ | ⟨_, h⟩ <;> rw [h] <;> exact Reaches.start.complete _ _

theorem Reaches.jmpIndirect {q : Word} : KeptBy (Reaches (.jmp (.ind q)) s) (exec (.jmp (.ind q)) s) := by
  show KeptBy _ ((readIndirect q s).run fun w t => Machine.complete w 5 t)
  unfold readIndirect
  cases hb : busRead q s with
  | raise k t =>
    obtain ⟨rfl, _⟩ := busRead_raise hb
    exact Reaches.start.takeFault k
  | ok lo t =>
    have ht : Reaches (.jmp (.ind q)) s t := Reaches.start.read (.pointerLow rfl) hb
    simp only [Access.andThen_ok]
    cases hb' : busRead (mkWord (hiByte q) (loByte q + 1)) t with
    | raise k u =>
      obtain ⟨rfl, _⟩ := busRead_raise hb'
      exact ht.takeFault k
    | ok hi u => exact (ht.read (.pointerHigh rfl) hb').complete _ _

theorem Reaches.enterInterrupt (ret : Word) (b : Bool) (vector : Word) : Reaches i s (enterInterrupt ret b vector s) := by
  have hp : Reaches i s (Machine.push (s.flags.pack b) (push16 ret s)) := ((Reaches.start.push _).push _).push _
  generalize hu : Machine.push (s.flags.pack b) (push16 ret s) = u at hp
  have he : Machine.enterInterrupt ret b vector s = (u.setFlags { u.flags with i := true }).setPc (readVector vector u) := by
    rw [← hu]
    rfl
  rw [he]
  exact hp.regs u.a u.x u.y u.sp _ _

/-- ADC and SBC: the decimal trap, then a reading instruction. -/
theorem Reaches.decimalInstr {o : Src} {f : Byte → State → State} (ho : ∀ l, o = .mem l → dataReadAddr i s = some (ea l s))
    (hf : ∀ v t, Reaches i s t → Reaches i s (f v t)) :
    KeptBy (Reaches i s)
      (if decimalTrap s then Machine.takeFault (.decimalUnsupported s.pc) s else Machine.readInstr o f s) := by
  split
  · exact Reaches.start.takeFault _
  · exact Reaches.readInstr ho hf

end

theorem exec_reaches (i : Instr) (s : State) : KeptBy (Reaches i s) (exec i s) := by
  have regs := fun (a x y sp : Byte) (pc : Word) (f : Flags) => (Reaches.start (i := i) (s := s)).regs a x y sp pc f
  cases i with
  | lda o | and o | ora o | eor o => exact .readInstr (by rintro l ⟨⟩; rfl) fun _ t ht => ht.regs _ t.x t.y t.sp t.pc _
  | ldx o => exact .readInstr (by rintro l ⟨⟩; rfl) fun v t ht => ht.regs t.a v t.y t.sp t.pc _
  | ldy o => exact .readInstr (by rintro l ⟨⟩; rfl) fun v t ht => ht.regs t.a t.x v t.sp t.pc _
  | cmp o | cpx o | cpy o => exact .readInstr (by rintro l ⟨⟩; rfl) fun _ t ht => ht.regs t.a t.x t.y t.sp t.pc _
  | bit l => exact .readInstr (o := .mem l) (by rintro l ⟨⟩; rfl) fun _ t ht => ht.regs t.a t.x t.y t.sp t.pc _
  | adc o | sbc o => exact .decimalInstr (by rintro l ⟨⟩; rfl) fun _ t ht => ht.regs _ t.x t.y t.sp t.pc _
  | sta l | stx l | sty l => exact .storeInstr rfl
  | inc l => exact .rmwInstr (l := l) (r := fun m => m + 1) (g := fun f m => f.setZN (m + 1)) rfl rfl
  | dec l => exact .rmwInstr (l := l) (r := fun m => m - 1) (g := fun f m => f.setZN (m - 1)) rfl rfl
  | asl o | lsr o | rol o | ror o =>
    cases o with
    | acc => exact (regs _ s.x s.y s.sp s.pc _).complete _ _
    | mem l => exact .rmwInstr rfl rfl
  | bpl off | bmi off | bvc off | bvs off | bcc off | bcs off | bne off | beq off => exact .branchInstr
  | jmp t =>
    cases t with
    | abs a => exact Reaches.start.complete a 3
    | ind q => exact .jmpIndirect
  | txa | tya => exact (regs _ s.x s.y s.sp s.pc _).complete _ _
  | tax | tsx | inx | dex => exact (regs s.a _ s.y s.sp s.pc _).complete _ _
  | tay | iny | dey => exact (regs s.a s.x _ s.sp s.pc _).complete _ _
  | txs => exact (regs s.a s.x s.y s.x s.pc _).complete _ _
  | clc | sec | cli | sei | clv | cld | sed => exact (regs s.a s.x s.y s.sp s.pc _).complete _ _
  | nop => exact Reaches.start.complete _ _
  | pha | php => exact (Reaches.start.push _).complete _ _
  | pla | plp => exact (regs _ s.x s.y (s.sp + 1) s.pc _).complete _ _
  | jsr a => exact ((Reaches.start.push _).push _).complete _ _
  | rts => exact (regs s.a s.x s.y (s.sp + 1 + 1) s.pc s.flags).complete _ _
  | brk =>
    rintro t ⟨⟩
    exact (Reaches.enterInterrupt _ _ _).time 7
  | rti =>
    rintro t ⟨⟩
    exact (regs s.a s.x s.y (s.sp + 1 + 1 + 1) _ _).time 6
  | unsupported op => exact Reaches.start.takeFault _

/-! What reaches each device -/

theorem resolve_eq_ppu {a : Word} {r : PpuReg} (h : resolve a = .ppu r) : reachesPpu a = true := by
  unfold resolve at h
  dsimp only at h
  split_ifs at h with h1 h2
  exact decide_eq_true ⟨by omega, h2⟩

theorem resolve_eq_prgRom {a : Word} (h : resolve a = .prgRom) : reachesMapper a = true := by
  unfold resolve at h
  dsimp only at h
  split_ifs at h
  exact decide_eq_true (by omega)

theorem touchesPpu_jmpIndirect (q : Word) (s : State) :
    touchesPpu (.jmp (.ind q)) s = (reachesPpu q || reachesPpu (mkWord (hiByte q) (loByte q + 1))) := rfl

/-- The addresses that an instruction reads are among those that `touchesPpu` looks at. -/
theorem ReadsAt.touchesPpu {i : Instr} {s : State} {a : Word} (h : ReadsAt i s a) (ha : reachesPpu a = true) :
    touchesPpu i s = true := by
  cases h with
  | data h => simp [Machine.touchesPpu, h, ha]
  | pointerLow h => rw [h, touchesPpu_jmpIndirect, ha, Bool.true_or]
  | pointerHigh h => rw [h, touchesPpu_jmpIndirect, ha, Bool.or_true]

theorem touchesPpu_of_dataWriteAddr {i : Instr} {s : State} {a : Word} (h : dataWriteAddr i s = some a)
    (ha : reachesPpu a = true) : touchesPpu i s = true := by
  simp [touchesPpu, h, ha]

/-- A picture-unit register write reaches neither the controller nor the mirroring (20_memory.md R52). -/
theorem ppuWrite_map_mirroring (r : PpuReg) (v : Byte) (s : State) :
    (ppuWrite r v s).map = s.map ∧ (ppuWrite r v s).ppu.mirroring = s.ppu.mirroring := by
  cases r with
  | ctrl | mask | status | oamAddr | oamData => exact ⟨rfl, rfl⟩
  | scroll => dsimp only [ppuWrite, scrollWrite]; split <;> exact ⟨rfl, rfl⟩
  | addr => dsimp only [ppuWrite, addrWrite]; split <;> exact ⟨rfl, rfl⟩
  | data =>
    dsimp only [ppuWrite, dataWrite, ppuMemWrite, chrWrite]
    split <;> [split; skip; skip] <;> exact ⟨rfl, rfl⟩

/-- A load-register write changes the controller and the mirroring, and no other state (20_memory.md R57). -/
theorem mapWrite_eq (a : Word) (v : Byte) (s : State) :
    mapWrite a v s = { s with
      map := (mapWrite a v s).map
      ppu := { s.ppu with mirroring := (mapWrite a v s).ppu.mirroring } } := by
  unfold mapWrite
  split
  · rfl
  · dsimp only
    split
    · cases mapTarget a <;> rfl
    · rfl

/-- Without the NMI model no register write makes an NMI pending (60_exceptions.md R173). -/
theorem ppuWrite_nmiPending (r : PpuReg) (v : Byte) {s : State} (h : s.cfg.params.nmiModel = .none) :
    (ppuWrite r v s).nmiPending = s.nmiPending := by
  cases r with
  | ctrl => exact ctrlWrite_nmiPending v h
  | mask | status | oamAddr | oamData => rfl
  | scroll => dsimp only [ppuWrite, scrollWrite]; split <;> rfl
  | addr => dsimp only [ppuWrite, addrWrite]; split <;> rfl
  | data =>
    dsimp only [ppuWrite, dataWrite, ppuMemWrite, chrWrite]
    split <;> [split; skip; skip] <;> rfl

section
variable {i : Instr} {s t : State}

theorem Reaches.map_mirroring (h : Reaches i s t) (hw : (dataWriteAddr i s).any reachesMapper = false) :
    t.map = s.map ∧ t.ppu.mirroring = s.ppu.mirroring := by
  induction h with
  | start => exact ⟨rfl, rfl⟩
  | regs _ _ _ _ _ _ _ ih => exact ih
  | push _ _ ih => exact ih
  | read _ _ hb ih =>
    rw [busRead_sameButReads hb]
    exact ih
  | write ha _ hb ih =>
    rw [ha] at hw
    rcases busWrite_cases hb with ⟨_, _, rfl⟩ | ⟨r, _, rfl⟩ | ⟨_, _, _, rfl⟩ | ⟨hr, _⟩
    · exact ih
    · obtain ⟨hmap, hmir⟩ := ppuWrite_map_mirroring r _ _
      exact ⟨hmap.trans ih.1, hmir.trans ih.2⟩
    · exact ih
    · exact absurd (hw.symm.trans (resolve_eq_prgRom hr)) (by decide)
  | time c _ ih => simpa using ih
  | fault _ _ ih => exact ih

theorem Reaches.untimed_spriteDraws (h : Reaches i s t) (hp : touchesPpu i s = false) :
    t.ppu.untimed = { s.ppu.untimed with mirroring := t.ppu.mirroring } ∧ t.spriteDraws = s.spriteDraws := by
  have untouched {p : Prop} (ht : touchesPpu i s = true) : p := absurd (hp.symm.trans ht) (by decide)
  induction h with
  | start => exact ⟨rfl, rfl⟩
  | regs _ _ _ _ _ _ _ ih => exact ih
  | push _ _ ih => exact ih
  | read ha _ hb ih =>
    rename_i a v t u _
    rcases busRead_cases (a := a) (s := t) with ⟨k, _, he⟩ | ⟨_, w, he⟩ | ⟨_, r, hr, _⟩
    · rw [he] at hb; cases hb
    · rw [he] at hb; cases hb; exact ih
    · exact untouched (ha.touchesPpu (resolve_eq_ppu hr))
  | write ha _ hb ih =>
    rename_i a v t u _
    rcases busWrite_cases hb with ⟨_, _, rfl⟩ | ⟨r, hr, rfl⟩ | ⟨_, _, _, rfl⟩ | ⟨_, rfl⟩
    · exact ih
    · exact untouched (touchesPpu_of_dataWriteAddr ha (resolve_eq_ppu hr))
    · exact ih
    · rw [mapWrite_eq a v t]
      obtain ⟨hu, hd⟩ := ih
      refine ⟨?_, hd⟩
      exact congrArg (fun p : Ppu => { p with mirroring := (mapWrite a v t).ppu.mirroring }) hu
  | time c _ ih =>
    rename_i t _
    rw [elapse_sameButTime c t]
    exact ih
  | fault _ _ ih => exact ih

theorem Reaches.cfg (h : Reaches i s t) : t.cfg = s.cfg := by
  induction h with
  | start => rfl
  | regs _ _ _ _ _ _ _ ih => exact ih
  | push _ _ ih => exact ih
  | read _ _ hb ih => exact (busRead_sameButReads hb).sameClock.cfg.trans ih
  | write _ _ hb ih => exact (busWrite_sameButWrites hb).sameClock.cfg.trans ih
  | time c _ ih => exact (elapse_cfg c _).trans ih
  | fault _ _ ih => exact ih

theorem Reaches.nmiPending (h : Reaches i s t) (hm : s.cfg.params.nmiModel = .none) : t.nmiPending = s.nmiPending := by
  induction h with
  | start => rfl
  | regs _ _ _ _ _ _ _ ih => exact ih
  | push _ _ ih => exact ih
  | read _ _ hb ih =>
    rw [busRead_sameButReads hb]
    exact ih
  | write _ ht hb ih =>
    rw [← ht.cfg] at hm
    rcases busWrite_cases hb with ⟨_, _, rfl⟩ | ⟨r, _, rfl⟩ | ⟨_, _, _, rfl⟩ | ⟨_, rfl⟩
    · exact ih
    · exact (ppuWrite_nmiPending r _ hm).trans ih
    · exact ih
    · rw [mapWrite_eq]
      exact ih
  | time c ht ih =>
    rw [← ht.cfg] at hm
    exact (elapse_nmiPending hm).trans ih
  | fault _ _ ih => exact ih

end

/-- An instruction leaves FAULT alone or records its own address (60_exceptions.md R169). -/
theorem exec_fault {i : Instr} {s t : State} (h : exec i s = .next t) :
    t.fault = s.fault ∨ ∃ k, t.fault = some { kind := k, pc := s.pc } := by
  cases exec_ends i s with
  | completes c u _ _ same eq =>
    cases eq.symm.trans h
    exact .inl ((elapse_fault c u).trans same.fault)
  | faults k u _ _ eq =>
    cases eq.symm.trans h
    exact .inr ⟨k, rfl⟩

/-- Settles O58: each clause holds of every state that the instruction's operations lead to. -/
theorem deviceFrame : Obligations.DeviceFrame := by
  intro i s t h
  have hr := exec_reaches i s t h
  exact ⟨hr.cfg, hr.map_mirroring, hr.untimed_spriteDraws, hr.nmiPending, exec_fault h⟩

end Sys2Proof.Machine
end

section
/-! PROOF. Where the CPU bus sends an access (20_memory.md Table R47, R48 to R53): RAM and its mirrors, the eight picture-unit
registers and theirs, the addresses that fault, and PRG-RAM. -/
namespace Sys2Proof.Machine

/-- Bit `i` of a word as arithmetic on its value. -/
theorem getLsbD_eq_decide {w : Nat} (a : BitVec w) (i : Nat) : a.getLsbD i = decide (a.toNat / 2 ^ i % 2 = 1) := by
  rw [BitVec.getLsbD, Nat.testBit_eq_decide_div_mod_eq]

/-- Settles O19: the second part is the first, then what a memory reads after a write. -/
theorem ramIsMirroredFourTimes : Obligations.RamIsMirroredFourTimes := by
  refine ⟨fun a v s ha => ⟨busRead_ram s ha, busWrite_ram s v ha⟩, fun a b v s h ha hb => ?_⟩
  obtain ⟨hwf, _⟩ := fits_iff.mp h.ramFits
  refine ⟨_, busWrite_ram s v ha, ?_⟩
  rw [busRead_ram _ hb, State.setRam_ram, Memory.read_write hwf]

/-- The index of each register in Table R62. -/
theorem ppuRegOf_index (a : Word) :
    (a.toNat % 8, ppuRegOf a) ∈ [(0, PpuReg.ctrl), (1, .mask), (2, .status), (3, .oamAddr), (4, .oamData), (5, .scroll),
      (6, .addr), (7, .data)] := by
  have hindex : a.toNat % 8 = 4 * (a.getLsbD 2).toNat + 2 * (a.getLsbD 1).toNat + (a.getLsbD 0).toNat := by
    simp only [BitVec.getLsbD, Nat.toNat_testBit]
    omega
  rw [hindex, ppuRegOf]
  cases a.getLsbD 2 <;> cases a.getLsbD 1 <;> cases a.getLsbD 0 <;> decide

/-- Settles O20. -/
theorem ppuRegistersAreMirroredEveryEight : Obligations.PpuRegistersAreMirroredEveryEight := by
  intro a v s hlo hhi
  exact ⟨ppuRegOf a, ppuRegOf_index a, busRead_ppu s hlo hhi, busWrite_ppu s v hlo hhi⟩

section
variable {a : Word} {k : ErrorKind} {s : State}

/-- A faulting access, read or write, raises its error and changes nothing. -/
theorem access_of_fault (v : Byte) (h : accessFault a s = some k) :
    busRead a s = .raise k s ∧ busWrite a v s = .raise k s := by
  simp only [busRead, busWrite, h, and_self]

/-- The APU/IO region, the test region and the unused cartridge range fault (20_memory.md R50, R51). -/
theorem accessFault_unbacked (s : State) (hlo : 0x4000 ≤ a.toNat) (hhi : a.toNat < 0x6000) :
    accessFault a s = some (.addressOutOfBounds a) := by
  have h1 : ¬ a.toNat < 0x2000 := by omega
  have h2 : ¬ a.toNat < 0x4000 := by omega
  unfold accessFault resolve
  rw [if_neg h1, if_neg h2, if_pos hhi]
  split_ifs <;> rfl

theorem accessFault_prgRam (s : State) (hlo : 0x6000 ≤ a.toNat) (hhi : a.toNat < 0x8000) :
    accessFault a s = if !s.cfg.hasPrgRam then some (.addressOutOfBounds a)
      else if s.map.prg.getLsbD 4 then some (.ramDisabled a) else none := by
  rw [accessFault, resolve_prgRam hlo hhi]

/-- PRG-RAM, when an access to it does not fault (20_memory.md R53). -/
theorem access_prgRam (v : Byte) (hlo : 0x6000 ≤ a.toNat) (hhi : a.toNat < 0x8000) (h : accessFault a s = none) :
    busRead a s = .ok (s.prgRam.read (a.toNat - 0x6000)) s ∧
      busWrite a v s = .ok () (s.setPrgRam (s.prgRam.write (a.toNat - 0x6000) v)) := by
  simp only [busRead, busWrite, h, resolve_prgRam hlo hhi, and_self]

end

/-- Settles O21, by the error of each range. -/
theorem faultingRangesAndPrgRam : Obligations.FaultingRangesAndPrgRam := by
  refine fun a v s => ⟨fun hlo hhi => ?unbacked, fun hlo hhi habsent => ?absent, fun hlo hhi hp hoff => ?disabled,
    fun hlo hhi hp hon => ?enabled⟩
  case unbacked => exact access_of_fault v (accessFault_unbacked s hlo hhi)
  case absent => exact access_of_fault v (by rw [accessFault_prgRam s hlo hhi, habsent]; rfl)
  case disabled => exact access_of_fault v (by rw [accessFault_prgRam s hlo hhi, hp, hoff]; rfl)
  case enabled => exact access_prgRam v hlo hhi (by rw [accessFault_prgRam s hlo hhi, hp, hon]; rfl)

end Sys2Proof.Machine
end

section
/-! PROOF. The bank-switching controller: the five writes of its protocol (20_memory.md R55 to R58), and the banks that PRG-ROM
and CHR accesses reach (R59 to R61). -/
namespace Sys2Proof.Machine

/-! One write of the load register -/

section
variable {a : Word} {v : Byte} {s : State}

/-- A write with bit 7 set (20_memory.md R55). -/
theorem mapWrite_reset (a : Word) (h7 : v.getLsbD 7 = true) :
    mapWrite a v s = s.setMap { s.map with shift := shiftMarker, control := s.map.control ||| 0x0C } := by
  rw [mapWrite, if_pos h7]

/-- A data write before the fifth (20_memory.md R55). -/
theorem mapWrite_shift (a : Word) (h7 : v.getLsbD 7 = false) (h0 : s.map.shift.getLsbD 0 = false) :
    mapWrite a v s = s.setMap { s.map with shift := shiftIn s.map.shift v } := by
  simp only [mapWrite, h7, h0, Bool.false_eq_true, if_false]

/-- The fifth data write (20_memory.md R56, R57). -/
theorem mapWrite_commit (a : Word) (h7 : v.getLsbD 7 = false) (h0 : s.map.shift.getLsbD 0 = true) :
    mapWrite a v s =
      let t := mapCommit (mapTarget a) ((shiftIn s.map.shift v).extractLsb' 0 5) s
      t.setMap { t.map with shift := shiftMarker } := by
  simp only [mapWrite, h7, h0, Bool.false_eq_true, if_false, if_true]

theorem mapTarget_control (hlo : 0x8000 ≤ a.toNat) (hhi : a.toNat < 0xA000) : mapTarget a = .control := by
  have h14 : a.getLsbD 14 = false := by rw [getLsbD_eq_decide, decide_eq_false_iff_not]; omega
  have h13 : a.getLsbD 13 = false := by rw [getLsbD_eq_decide, decide_eq_false_iff_not]; omega
  rw [mapTarget, h14, h13]

theorem mapTarget_chr0 (hlo : 0xA000 ≤ a.toNat) (hhi : a.toNat < 0xC000) : mapTarget a = .chr0 := by
  have h14 : a.getLsbD 14 = false := by rw [getLsbD_eq_decide, decide_eq_false_iff_not]; omega
  have h13 : a.getLsbD 13 = true := by rw [getLsbD_eq_decide, decide_eq_true_iff]; omega
  rw [mapTarget, h14, h13]

theorem mapTarget_chr1 (hlo : 0xC000 ≤ a.toNat) (hhi : a.toNat < 0xE000) : mapTarget a = .chr1 := by
  have h14 : a.getLsbD 14 = true := by rw [getLsbD_eq_decide, decide_eq_true_iff]; omega
  have h13 : a.getLsbD 13 = false := by rw [getLsbD_eq_decide, decide_eq_false_iff_not]; omega
  rw [mapTarget, h14, h13]

theorem mapTarget_prg (hlo : 0xE000 ≤ a.toNat) : mapTarget a = .prg := by
  have ha := a.isLt
  have h14 : a.getLsbD 14 = true := by rw [getLsbD_eq_decide, decide_eq_true_iff]; omega
  have h13 : a.getLsbD 13 = true := by rw [getLsbD_eq_decide, decide_eq_true_iff]; omega
  rw [mapTarget, h14, h13]

end

/-- The mirroring of a control value, by its low two bits (10_state.md Table R30). -/
theorem mirroringOf_eq : ∀ c : BitVec 5, mirroringOf c = match c.toNat % 4 with
    | 0 => .oneScreenLower | 1 => .oneScreenUpper | 2 => .vertical | _ => .horizontal := by decide

theorem shiftIn_eq (shift v : Byte) : shiftIn shift v = (shift >>> 1) ||| (if v.getLsbD 0 then 0x10 else 0x00) := by
  unfold shiftIn
  cases v.getLsbD 0 <;> rfl

/-- Settles O23: the reset, the shift and the commit to each of the four registers. -/
theorem controllerWrite : Obligations.ControllerWrite := by
  intro a v s ha shifted val
  have hshifted : shiftIn s.map.shift v = shifted := shiftIn_eq _ _
  have hval : (shiftIn s.map.shift v).extractLsb' 0 5 = val := by
    rw [hshifted]
    exact BitVec.eq_of_toNat_eq rfl
  rw [busWrite_prgRom s v ha]
  refine ⟨fun h7 => ?reset, fun h7 h0 => ?shift, fun h7 h0 => ?commit⟩
  case reset => rw [mapWrite_reset a h7]; rfl
  case shift => rw [mapWrite_shift a h7 h0, hshifted]; rfl
  case commit =>
    rw [mapWrite_commit a h7 h0, hval]
    refine ⟨fun hhi => ?_, fun hlo hhi => ?_, fun hlo hhi => ?_, fun hlo => ?_⟩
    · rw [mapTarget_control ha hhi, mapCommit, mirroringOf_eq]; rfl
    · rw [mapTarget_chr0 hlo hhi]; rfl
    · rw [mapTarget_chr1 hlo hhi]; rfl
    · rw [mapTarget_prg hlo]; rfl

/-! Five writes -/

/-- What a data write whose bit 0 is `b` makes of the shift register (20_memory.md R55). -/
def shiftBit (shift : Byte) (b : Bool) : Byte := (shift >>> 1) ||| ((BitVec.ofBool b).setWidth 8 <<< 4)

theorem shiftIn_eq_shiftBit (shift v : Byte) : shiftIn shift v = shiftBit shift (v.getLsbD 0) := rfl

/-- From the marker, four bits leave bit 0 clear before each and set after the last: the marker has moved down to it. -/
theorem shiftBit_marker_low : ∀ b1 b2 b3 b4 : Bool,
    shiftMarker.getLsbD 0 = false ∧
    (shiftBit shiftMarker b1).getLsbD 0 = false ∧
    (shiftBit (shiftBit shiftMarker b1) b2).getLsbD 0 = false ∧
    (shiftBit (shiftBit (shiftBit shiftMarker b1) b2) b3).getLsbD 0 = false ∧
    (shiftBit (shiftBit (shiftBit (shiftBit shiftMarker b1) b2) b3) b4).getLsbD 0 = true := by decide

/-- From the marker, the fifth bit in stands highest (20_memory.md R58). -/
theorem shiftBit_marker_value : ∀ b1 b2 b3 b4 b5 : Bool,
    (shiftBit (shiftBit (shiftBit (shiftBit (shiftBit shiftMarker b1) b2) b3) b4) b5).extractLsb' 0 5 =
      BitVec.ofBool b5 ++ BitVec.ofBool b4 ++ BitVec.ofBool b3 ++ BitVec.ofBool b2 ++ BitVec.ofBool b1 := by decide

/-- Five data writes from the marker are a commit of their five bits to the register the last address selects. -/
theorem mapWrite_five (a1 a2 a3 a4 a5 : Word) {v1 v2 v3 v4 v5 : Byte} {s : State} (h1 : v1.getLsbD 7 = false)
    (h2 : v2.getLsbD 7 = false) (h3 : v3.getLsbD 7 = false) (h4 : v4.getLsbD 7 = false) (h5 : v5.getLsbD 7 = false)
    (hs : s.map.shift = shiftMarker) :
    (mapWrite a5 v5 (mapWrite a4 v4 (mapWrite a3 v3 (mapWrite a2 v2 (mapWrite a1 v1 s))))).map =
      { (mapCommit (mapTarget a5) (BitVec.ofBool (v5.getLsbD 0) ++ BitVec.ofBool (v4.getLsbD 0) ++
          BitVec.ofBool (v3.getLsbD 0) ++ BitVec.ofBool (v2.getLsbD 0) ++ BitVec.ofBool (v1.getLsbD 0)) s).map with
        shift := shiftMarker } := by
  obtain ⟨l0, l1, l2, l3, l4⟩ := shiftBit_marker_low (v1.getLsbD 0) (v2.getLsbD 0) (v3.getLsbD 0) (v4.getLsbD 0)
  rw [mapWrite_shift a1 h1 (by rw [hs]; exact l0), hs, mapWrite_shift a2 h2 (by exact l1), mapWrite_shift a3 h3 (by exact l2),
    mapWrite_shift a4 h4 (by exact l3), mapWrite_commit a5 h5 (by exact l4)]
  simp only [State.setMap_map, shiftIn_eq_shiftBit, shiftBit_marker_value]
  cases mapTarget a5 <;> rfl

/-- Settles O24, by the commit that five writes are and the reset that a write with bit 7 set is. -/
theorem fiveWritesCommitLsbFirst : Obligations.FiveWritesCommitLsbFirst := by
  refine ⟨fun a1 a2 a3 a4 a5 v1 v2 v3 v4 v5 s ha hv hs => ?_, fun a v s ha h7 => ?_⟩
  · simp only [List.forall_mem_cons, List.not_mem_nil, false_implies, implies_true, and_true] at ha hv
    obtain ⟨ha1, ha2, ha3, ha4, ha5⟩ := ha
    obtain ⟨h1, h2, h3, h4, h5⟩ := hv
    have hmap := mapWrite_five a1 a2 a3 a4 a5 h1 h2 h3 h4 h5 hs
    have hshift : s.map.shift = shiftMarker := hs
    refine ⟨mapWrite a5 v5 (mapWrite a4 v4 (mapWrite a3 v3 (mapWrite a2 v2 (mapWrite a1 v1 s)))), ?run, fun hhi => ?control,
      fun hlo hhi => ?chr0, fun hlo hhi => ?chr1, fun hlo => ?prg⟩
    case run =>
      simp only [busWrite_prgRom _ _ ha1, busWrite_prgRom _ _ ha2, busWrite_prgRom _ _ ha3, busWrite_prgRom _ _ ha4,
        busWrite_prgRom _ _ ha5, Access.andThen_ok]
    case control => rw [hmap, mapTarget_control ha5 hhi, ← hshift]; rfl
    case chr0 => rw [hmap, mapTarget_chr0 hlo hhi, ← hshift]; rfl
    case chr1 => rw [hmap, mapTarget_chr1 hlo hhi, ← hshift]; rfl
    case prg => rw [hmap, mapTarget_prg hlo, ← hshift]; rfl
  · refine ⟨_, busWrite_prgRom s v ha, ?_⟩
    rw [mapWrite_reset a h7]
    exact ⟨rfl, rfl, rfl, rfl, rfl, rfl⟩

/-! Banks -/

theorem prgMode_toNat (m : MapState) : (prgMode m).toNat = m.control.toNat / 4 % 4 := by
  rw [prgMode, BitVec.extractLsb'_toNat, Nat.shiftRight_eq_div_pow]

theorem prgBankField_eq (m : MapState) : prgBankField m = m.prg.toNat % 16 := by
  rw [prgBankField, BitVec.extractLsb'_toNat, Nat.shiftRight_zero]

theorem prgBank_lt {s : State} (a : Word) (h : 1 ≤ s.cfg.prgBanks.val) : prgBank a s < s.cfg.prgBanks.val := by
  have hoff := prgOffset_lt a h
  unfold prgOffset at hoff
  omega

section
variable (a : Word) {s : State}

/-- A 32 KB unit (20_memory.md R59). -/
theorem prgBank_unit (h2 : prgMode s.map ≠ 2) (h3 : prgMode s.map ≠ 3) :
    prgBank a s = if a.toNat < 0xC000 then (prgBankField s.map / 2 * 2) % s.cfg.prgBanks.val
      else (prgBankField s.map / 2 * 2 + 1) % s.cfg.prgBanks.val := by
  simp only [prgBank, prgLowBank, prgHighBank, h2, h3, if_false]

/-- The first bank low, a switchable one high (20_memory.md R59). -/
theorem prgBank_fixedLow (h : prgMode s.map = 2) :
    prgBank a s = if a.toNat < 0xC000 then 0 else prgBankField s.map % s.cfg.prgBanks.val := by
  simp only [prgBank, prgLowBank, prgHighBank, h, if_true]

/-- A switchable bank low, the last one high (20_memory.md R59). -/
theorem prgBank_fixedHigh (h : prgMode s.map = 3) :
    prgBank a s = if a.toNat < 0xC000 then prgBankField s.map % s.cfg.prgBanks.val else s.cfg.prgBanks.val - 1 := by
  have h2 : (3 : BitVec 2) ≠ 2 := by decide
  simp only [prgBank, prgLowBank, prgHighBank, h, h2, if_true, if_false]

end

/-- Settles O22: the bank is the one the model shows, in each mode the rule's. -/
theorem prgReadsThroughTheBank : Obligations.PrgReadsThroughTheBank := by
  intro a s ha hnb nb p m
  have hmode (k : Nat) (hk : k < 4) : prgMode s.map = BitVec.ofNat 2 k ↔ m = k := by
    rw [← BitVec.toNat_inj, prgMode_toNat, BitVec.toNat_ofNat, Nat.mod_eq_of_lt hk]
  have hfield : prgBankField s.map = p := prgBankField_eq s.map
  have heven : p / 2 * 2 = p - p % 2 := by omega
  refine ⟨prgBank a s, prgBank_lt a hnb, fun hm => ?unit, fun hm => ?fixedLow, fun hm => ?fixedHigh, busRead_prgRom s ha⟩
  case unit =>
    have h2 : prgMode s.map ≠ 2 := fun h => by have := (hmode 2 (by decide)).mp h; omega
    have h3 : prgMode s.map ≠ 3 := fun h => by have := (hmode 3 (by decide)).mp h; omega
    rw [prgBank_unit a h2 h3, hfield, heven]
  case fixedLow => rw [prgBank_fixedLow a ((hmode 2 (by decide)).mpr hm), hfield]
  case fixedHigh => rw [prgBank_fixedHigh a ((hmode 3 (by decide)).mpr hm), hfield]

theorem chrIsRam_iff (c : Config) : chrIsRam c = true ↔ c.chrRomLen = 0 := beq_iff_eq

/-- The CHR bank of the rule (20_memory.md R61). -/
theorem chrBank_eq (a : Nat) (s : State) : chrBank a s =
    if s.map.control.getLsbD 4 then (if a < 0x1000 then s.map.chr0.toNat else s.map.chr1.toNat) % chrBanks s.cfg
    else (s.map.chr0.toNat - s.map.chr0.toNat % 2 + a / 4096) % chrBanks s.cfg := by
  have heven : s.map.chr0.toNat / 2 * 2 = s.map.chr0.toNat - s.map.chr0.toNat % 2 := by omega
  rw [chrBank, heven]

theorem ppuResolve_chr (m : Mirroring) {a : BitVec 14} (h : a.toNat < 0x2000) : ppuResolve m a = .chr a.toNat := by
  rw [ppuResolve, if_pos h]

/-- Settles O25, by the bank of the rule. -/
theorem chrAccessThroughTheBank : Obligations.ChrAccessThroughTheBank := by
  intro a v s ha len m4 c0 b index
  have hbanks : chrBanks s.cfg = m4 := by simp only [chrBanks, chrIsRam_iff]; rfl
  have hindex : chrIndex a.toNat s = index := by rw [chrIndex, chrBank_eq, hbanks]
  refine ⟨?read, ?write, fun hlen => ?bound⟩
  case read => simp only [ppuMemRead, ppuResolve_chr _ ha, chrRead, hindex, chrIsRam_iff]; rfl
  case write => simp only [ppuMemWrite, ppuResolve_chr _ ha, chrWrite, hindex, chrIsRam_iff]; rfl
  case bound =>
    have hlt := chrIndex_lt a.toNat hlen
    simp only [chrIsRam_iff, hindex] at hlt
    exact hlt

end Sys2Proof.Machine
end

section
/-! PROOF. The picture unit's registers (20_memory.md R62 to R77) and what its address space maps to (R79 to R81). -/
namespace Sys2Proof.Machine

/-- A concatenation as arithmetic on its parts. -/
theorem toNat_append_eq {m n : Nat} (x : BitVec m) (y : BitVec n) : (x ++ y).toNat = x.toNat * 2 ^ n + y.toNat := by
  rw [BitVec.toNat_append, ← Nat.shiftLeft_add_eq_or_of_lt y.isLt, Nat.shiftLeft_eq]

/-! Register fields, bit by bit, as the masks and shifts of the rules -/

/-- A control write's new `t` (20_memory.md R68). -/
theorem ctrlWrite_t (v : Byte) (s : State) :
    (ctrlWrite v s).ppu.t = (s.ppu.t &&& 0x73FF) ||| ((v &&& 0x03).setWidth 15 <<< 10) := by
  apply BitVec.eq_of_getLsbD_eq
  intro i hi
  simp only [ctrlWrite, State.setPpu_ppu, BitVec.getLsbD_append]
  interval_cases i <;> simp

/-- A first scroll write's new `t` (20_memory.md R73). -/
theorem scrollWrite_t_of_clear (v : Byte) {s : State} (h : s.ppu.w = false) :
    (scrollWrite v s).ppu.t = (s.ppu.t &&& 0x7FE0) ||| (v >>> 3).setWidth 15 := by
  apply BitVec.eq_of_getLsbD_eq
  intro i hi
  simp only [scrollWrite, h, Bool.false_eq_true, if_false, State.setPpu_ppu, BitVec.getLsbD_append]
  interval_cases i <;> simp

/-- A second scroll write's new `t` (20_memory.md R73). -/
theorem scrollWrite_t_of_set (v : Byte) {s : State} (h : s.ppu.w = true) :
    (scrollWrite v s).ppu.t =
      (s.ppu.t &&& 0x0C1F) ||| ((v &&& 0x07).setWidth 15 <<< 12) ||| ((v >>> 3).setWidth 15 <<< 5) := by
  apply BitVec.eq_of_getLsbD_eq
  intro i hi
  simp only [scrollWrite, h, if_true, State.setPpu_ppu, BitVec.getLsbD_append]
  interval_cases i <;> simp

/-- A first address write's new `t` (20_memory.md R74). -/
theorem addrWrite_t_of_clear (v : Byte) {s : State} (h : s.ppu.w = false) :
    (addrWrite v s).ppu.t = (s.ppu.t &&& 0x00FF) ||| ((v &&& 0x3F).setWidth 15 <<< 8) := by
  apply BitVec.eq_of_getLsbD_eq
  intro i hi
  simp only [addrWrite, h, Bool.false_eq_true, if_false, State.setPpu_ppu, BitVec.getLsbD_append]
  interval_cases i <;> simp

/-- A second address write's new `t` (20_memory.md R74). -/
theorem addrWrite_t_of_set (v : Byte) {s : State} (h : s.ppu.w = true) :
    (addrWrite v s).ppu.t = (s.ppu.t &&& 0x7F00) ||| v.setWidth 15 := by
  apply BitVec.eq_of_getLsbD_eq
  intro i hi
  simp only [addrWrite, h, if_true, State.setPpu_ppu, BitVec.getLsbD_append]
  interval_cases i <;> simp

/-! What each write is, its new `t` apart -/

section
variable (v : Byte) {s : State}

theorem ctrlWrite_eq (s : State) : ctrlWrite v s = { s with
    nmiPending := (ctrlWrite v s).nmiPending
    ppu := { s.ppu with latch := v, ctrl := v, t := (ctrlWrite v s).ppu.t } } := rfl

theorem scrollWrite_of_clear (h : s.ppu.w = false) : scrollWrite v s = { s with
    ppu := { s.ppu with latch := v, t := (scrollWrite v s).ppu.t, x := v.extractLsb' 0 3, w := true } } := by
  simp only [scrollWrite, h, Bool.false_eq_true, if_false]; rfl

theorem scrollWrite_of_set (h : s.ppu.w = true) : scrollWrite v s = { s with
    ppu := { s.ppu with latch := v, t := (scrollWrite v s).ppu.t, w := false } } := by
  simp only [scrollWrite, h, if_true]; rfl

theorem addrWrite_of_clear (h : s.ppu.w = false) : addrWrite v s = { s with
    ppu := { s.ppu with latch := v, t := (addrWrite v s).ppu.t, w := true } } := by
  simp only [addrWrite, h, Bool.false_eq_true, if_false]; rfl

theorem addrWrite_of_set (h : s.ppu.w = true) : addrWrite v s = { s with
    ppu := { s.ppu with latch := v, t := (addrWrite v s).ppu.t, v := (addrWrite v s).ppu.t, w := false } } := by
  simp only [addrWrite, h, if_true]; rfl

end

/-- Two address writes, high byte first (20_memory.md R74). -/
theorem addrWrite_pair (hi lo : Byte) {s : State} (h : s.ppu.w = false) :
    (addrWrite lo (addrWrite hi s)).ppu.v.toNat = hi.toNat % 64 * 256 + lo.toNat ∧
      (addrWrite lo (addrWrite hi s)).ppu.w = false := by
  have hw : (addrWrite hi s).ppu.w = true := by rw [addrWrite_of_clear hi h]
  have ht : (addrWrite hi s).ppu.t.toNat = hi.toNat % 64 * 256 + s.ppu.t.toNat % 256 := by
    have hcat : (addrWrite hi s).ppu.t = 0#1 ++ hi.extractLsb' 0 6 ++ s.ppu.t.extractLsb' 0 8 := by
      simp only [addrWrite, h]; rfl
    rw [hcat, toNat_append_eq, toNat_append_eq, BitVec.extractLsb'_toNat, BitVec.extractLsb'_toNat]
    simp
  have hv (u : State) (hu : u.ppu.w = true) :
      (addrWrite lo u).ppu.v.toNat = u.ppu.t.toNat / 2 ^ 8 % 2 ^ 7 * 2 ^ 8 + lo.toNat := by
    have hcat : (addrWrite lo u).ppu.v = u.ppu.t.extractLsb' 8 7 ++ lo := by
      simp only [addrWrite, hu]; rfl
    rw [hcat, toNat_append_eq, BitVec.extractLsb'_toNat, Nat.shiftRight_eq_div_pow]
  refine ⟨?_, by rw [addrWrite_of_set lo hw]⟩
  rw [hv _ hw, ht]
  omega

/-- Settles O28, by the four writes. -/
theorem scrollAndAddressPairs : Obligations.ScrollAndAddressPairs := by
  refine fun s v => ⟨fun h => ⟨?_, ?_, fun lo => addrWrite_pair v lo h⟩, fun h => ⟨?_, ?_⟩⟩
  · have hx : v.extractLsb' 0 3 = v.setWidth 3 := BitVec.eq_of_toNat_eq rfl
    rw [← scrollWrite_t_of_clear v h, ← hx]
    exact scrollWrite_of_clear v h
  · rw [← addrWrite_t_of_clear v h]
    exact addrWrite_of_clear v h
  · rw [← scrollWrite_t_of_set v h]
    exact scrollWrite_of_set v h
  · rw [← addrWrite_t_of_set v h]
    exact addrWrite_of_set v h

/-- The byte a status read returns: vblank, the draw, the latch's low five bits (20_memory.md R66). -/
theorem statusRead_value (s : State) :
    (statusRead s).1.getLsbD 7 = s.ppu.vblank ∧
    (statusRead s).1.extractLsb' 5 2 = Config.statusSpriteBits s.spriteDraws ∧
    (statusRead s).1.toNat % 32 = s.ppu.latch.toNat % 32 := by
  refine ⟨?_, ?_, ?_⟩ <;> dsimp only [statusRead]
  · rw [BitVec.getLsbD_append, if_neg (by decide), BitVec.getLsbD_append, if_neg (by decide)]
    simp
  · rw [BitVec.extractLsb'_append_eq_of_le (by decide)]
    rw [BitVec.extractLsb'_append_eq_of_add_le (by decide)]
    simp
  · rw [toNat_append_eq, BitVec.extractLsb'_toNat]
    omega

/-- Settles O26, by the byte a status read returns. -/
theorem statusReadClearsVblank : Obligations.StatusReadClearsVblank := by
  intro s
  obtain ⟨h7, h65, h40⟩ := statusRead_value s
  exact ⟨(statusRead s).1, h7, h65, h40, rfl⟩

/-- Settles O29, by what a memory reads after a write. -/
theorem oamDataPort : Obligations.OamDataPort := by
  refine ⟨fun s v => ⟨rfl, rfl⟩, fun s v k h => ?_⟩
  obtain ⟨hwf, _⟩ := fits_iff.mp h.oamFits
  show (s.ppu.oam.write s.ppu.oamaddr.toNat v).read k.toNat = _
  rw [Memory.read_write hwf]
  simp only [BitVec.toNat_inj]

/-- A write in the picture unit's address space changes CHR-RAM, CIRAM and the palette at most (20_memory.md R79). -/
theorem ppuMemWrite_eq (a : BitVec 14) (v : Byte) (s : State) : ppuMemWrite a v s = { s with
    chrRam := (ppuMemWrite a v s).chrRam
    ppu := { s.ppu with ciram := (ppuMemWrite a v s).ppu.ciram, pal := (ppuMemWrite a v s).ppu.pal } } := by
  unfold ppuMemWrite chrWrite
  split <;> [split; skip; skip] <;> rfl

/-- The increment after a data access (20_memory.md R75). -/
theorem incV_eq (p : Ppu) : incV p = BitVec.ofNat 15 (p.v.toNat + if p.ctrl.getLsbD 2 then 32 else 1) := by
  unfold incV
  apply BitVec.eq_of_toNat_eq
  split <;> simp

/-- Every register write leaves its byte in the latch (20_memory.md R63). -/
theorem ppuWrite_latch (r : PpuReg) (v : Byte) (s : State) : (ppuWrite r v s).ppu.latch = v := by
  cases r with
  | ctrl | mask | status | oamAddr | oamData => rfl
  | scroll =>
    show (scrollWrite v s).ppu.latch = v
    cases h : s.ppu.w
    · rw [scrollWrite_of_clear v h]
    · rw [scrollWrite_of_set v h]
  | addr =>
    show (addrWrite v s).ppu.latch = v
    cases h : s.ppu.w
    · rw [addrWrite_of_clear v h]
    · rw [addrWrite_of_set v h]
  | data =>
    show (ppuMemWrite _ v _).ppu.latch = v
    rw [ppuMemWrite_eq]
    rfl

/-- A register read leaves in the latch the byte it returns (20_memory.md R65, R66, R72, R77). -/
theorem ppuRead_latch (r : PpuReg) (s : State) : (ppuRead r s).2.ppu.latch = (ppuRead r s).1 := by
  cases r with
  | data => dsimp only [ppuRead, dataRead]; split <;> rfl
  | ctrl | mask | status | oamAddr | oamData | scroll | addr => rfl

/-- The rising edge that makes an NMI pending (20_memory.md R68, 60_exceptions.md R173). -/
theorem ctrlWrite_nmiPending_eq (v : Byte) (s : State) :
    (ctrlWrite v s).nmiPending = (s.nmiPending || (decide (s.cfg.params.nmiModel = .vblankEdge) && s.ppu.vblank &&
      !s.ppu.ctrl.getLsbD 7 && v.getLsbD 7)) := by
  dsimp only [ctrlWrite]
  cases s.ppu.vblank <;> simp

/-- Settles O27, by the latch of each register write and read and the two halves of a control write. -/
theorem latchAndPlainRegisters : Obligations.LatchAndPlainRegisters := by
  refine fun s v => ⟨fun r => ppuWrite_latch r v s, fun r _ => ppuRead_latch r s, fun r hr => ?writeOnly,
    rfl, rfl, rfl, ?ctrl⟩
  case writeOnly =>
    simp only [List.mem_cons, List.not_mem_nil, or_false] at hr
    rcases hr with rfl | rfl | rfl | rfl | rfl <;> rfl
  case ctrl =>
    rw [← ctrlWrite_t v s, ← ctrlWrite_nmiPending_eq v s]
    exact ctrlWrite_eq v s

/-- A data read below the palette answers the buffer and refills it (20_memory.md R77). -/
theorem dataRead_buffered {s : State} (h : (vramAddr s.ppu).toNat < 0x3F00) :
    dataRead s = (s.ppu.readbuf, s.setPpu
      { s.ppu with readbuf := ppuMemRead (vramAddr s.ppu) s, v := incV s.ppu, latch := s.ppu.readbuf }) := by
  rw [dataRead, if_pos h]

/-- A data read in the palette answers the entry, and fills the buffer from the nametable below it (20_memory.md R77). -/
theorem dataRead_palette {s : State} (h : 0x3F00 ≤ (vramAddr s.ppu).toNat) :
    dataRead s = ((s.ppu.latch &&& 0xC0) ||| ppuMemRead (vramAddr s.ppu) s, s.setPpu
      { s.ppu with
        readbuf := ppuMemRead (vramAddr s.ppu - 0x1000) s
        v := incV s.ppu
        latch := (s.ppu.latch &&& 0xC0) ||| ppuMemRead (vramAddr s.ppu) s }) := by
  rw [dataRead, if_neg (Nat.not_lt.mpr h)]

/-- Settles O30: the write by its frame, the read by its two forms. -/
theorem pictureDataPort : Obligations.PictureDataPort := by
  intro s v a next
  have hinc : incV s.ppu = next := incV_eq s.ppu
  refine ⟨⟨_, rfl, ?write⟩, fun ha => ?buffered, fun ha => ?palette⟩
  case write =>
    have hframe := ppuMemWrite_eq a v (s.setPpu { s.ppu with latch := v })
    have hinc' : incV (ppuMemWrite a v (s.setPpu { s.ppu with latch := v })).ppu = next := by
      rw [hframe]; exact hinc
    rw [← hinc']
    rfl
  case buffered =>
    rw [← hinc]
    exact dataRead_buffered ha
  case palette =>
    have hback : BitVec.ofNat 14 (a.toNat - 0x1000) = a - 0x1000 := by bv_omega
    rw [← hinc, hback]
    exact dataRead_palette ha

/-! The nametables and the palette -/

theorem ppuResolve_palette (m : Mirroring) {a : BitVec 14} (h : 0x3F00 ≤ a.toNat) :
    ppuResolve m a = .palette (paletteIndex a.toNat) := by
  have h1 : ¬ a.toNat < 0x2000 := by omega
  have h2 : ¬ a.toNat < 0x3000 := by omega
  rw [ppuResolve, if_neg h1, if_neg h2, if_neg (Nat.not_lt.mpr h)]

/-- 0x3000-0x3EFF mirrors 0x2000-0x2EFF (20_memory.md R79). -/
theorem ciramIndex_mirror (m : Mirroring) {n : Nat} (h : 0x3000 ≤ n) : ciramIndex m (n - 0x1000) = ciramIndex m n := by
  have hpage : (n - 0x1000) / 0x400 % 4 = n / 0x400 % 4 := by omega
  have hoff : (n - 0x1000) % 0x400 = n % 0x400 := by omega
  rw [ciramIndex, ciramIndex, hpage, hoff]

theorem ppuResolve_ciram (m : Mirroring) {a : BitVec 14} (hlo : 0x2000 ≤ a.toNat) (hhi : a.toNat < 0x3F00) :
    ppuResolve m a = .ciram (ciramIndex m a.toNat) := by
  rw [ppuResolve, if_neg (Nat.not_lt.mpr hlo)]
  split_ifs with h
  · rfl
  · rw [ciramIndex_mirror m (Nat.not_lt.mp h)]

/-- The palette entry of the rule (20_memory.md R81). -/
theorem paletteIndex_eq (n : Nat) :
    paletteIndex n = if n % 0x20 ∈ [0x10, 0x14, 0x18, 0x1C] then n % 0x20 - 0x10 else n % 0x20 := by
  simp only [paletteIndex, List.mem_cons, List.not_mem_nil, or_false]

/-- Settles O31, by what an address of each range resolves to. -/
theorem nametableAndPaletteMap : Obligations.NametableAndPaletteMap := by
  intro a v s n page i e
  have hi : ciramIndex s.ppu.mirroring a.toNat = i := rfl
  have he : paletteIndex a.toNat = e := paletteIndex_eq a.toNat
  refine ⟨fun hlo hhi => ?ciram, fun hlo hhi => ?mirror, fun hlo => ?palette⟩
  case ciram =>
    have hr := ppuResolve_ciram s.ppu.mirroring hlo hhi
    rw [hi] at hr
    refine ⟨ciramIndex_lt _ _, ?_, ?_⟩
    · rw [ppuMemRead, hr]
    · rw [ppuMemWrite, hr]; rfl
  case mirror =>
    have hback : (a - 0x1000).toNat = a.toNat - 0x1000 := by bv_omega
    have hr := ppuResolve_ciram s.ppu.mirroring (by omega) hhi
    have hr' := ppuResolve_ciram s.ppu.mirroring (a := a - 0x1000) (by omega) (by omega)
    rw [hback, ciramIndex_mirror _ hlo] at hr'
    rw [ppuMemRead, ppuMemRead, hr, hr']
  case palette =>
    have hr := ppuResolve_palette s.ppu.mirroring hlo
    rw [he] at hr
    refine ⟨he ▸ paletteIndex_lt a.toNat, ?_, ?_⟩
    · rw [ppuMemRead, hr]
      exact BitVec.toNat_setWidth_of_le (by decide)
    · rw [ppuMemWrite, hr]; rfl

end Sys2Proof.Machine
end

section
/-! PROOF. A bus write stores in one cell (20_memory.md R47, R48, R53, R61, R71, R76, R79). -/
namespace Sys2Proof.Machine

/-- `s` with the byte `v` stored in one cell. -/
def writeCell (c : Cell) (v : Byte) (s : State) : State :=
  match c with
  | .ram i => s.setRam (s.ram.write i v)
  | .prgRam i => s.setPrgRam (s.prgRam.write i v)
  | .chrRam i => s.setChrRam (s.chrRam.write i v)
  | .oam i => s.setPpu { s.ppu with oam := s.ppu.oam.write i v }
  | .ciram i => s.setPpu { s.ppu with ciram := s.ppu.ciram.write i v }
  | .pal i => s.setPpu { s.ppu with pal := s.ppu.pal.write i (v.setWidth 6) }

/-- What a cell holds once `v` is stored in it: a palette entry has six bits (20_memory.md R81). -/
def storedValue (c : Cell) (v : Byte) : Byte :=
  match c with
  | .pal _ => v &&& 0x3F
  | .ram _ | .prgRam _ | .chrRam _ | .oam _ | .ciram _ => v

/-- The same contents in every cell of every memory. -/
def SameCells (s t : State) : Prop := ∀ d, cellRead d t = cellRead d s

/-- From `s` to `t` the byte `v` has been stored in the cell `c`, if there is one, and no other cell has changed. -/
structure StoredIn (c : Option Cell) (v : Byte) (s t : State) : Prop where
  stored : ∀ d, c = some d → cellRead d t = storedValue d v
  others : ∀ d, c ≠ some d → cellRead d t = cellRead d s

theorem SameCells.storedIn {s t : State} (v : Byte) (h : SameCells s t) : StoredIn none v s t :=
  ⟨fun _ hd => (nomatch hd), fun d _ => h d⟩

theorem StoredIn.congr {c : Option Cell} {v : Byte} {s s' t t' : State} (h : StoredIn c v s t) (hs : SameCells s' s)
    (ht : SameCells t t') : StoredIn c v s' t' :=
  ⟨fun d hd => (ht d).trans (h.stored d hd), fun d hd => (ht d).trans ((h.others d hd).trans (hs d))⟩

theorem setWidth_six_eight (v : Byte) : (v.setWidth 6).setWidth 8 = v &&& 0x3F := by
  apply BitVec.eq_of_getLsbD_eq
  intro i hi
  interval_cases i <;> simp

section
variable {s : State} (h : Inv s)
include h

theorem cellRead_writeCell_same (c : Cell) (v : Byte) : cellRead c (writeCell c v s) = storedValue c v := by
  cases c with
  | ram i => exact Memory.read_write_same (fits_iff.mp h.ramFits).1 i v
  | prgRam i => exact Memory.read_write_same (fits_iff.mp h.prgRamFits).1 i v
  | chrRam i => exact Memory.read_write_same (fits_iff.mp h.chrRamFits).1 i v
  | oam i => exact Memory.read_write_same (fits_iff.mp h.oamFits).1 i v
  | ciram i => exact Memory.read_write_same (fits_iff.mp h.ciramFits).1 i v
  | pal i =>
    refine (congrArg (BitVec.setWidth 8) ?_).trans (setWidth_six_eight v)
    exact Memory.read_write_same (fits_iff.mp h.palFits).1 i _

/-- Cells of different memories are different fields of the state; cells of one memory have different indices. -/
theorem cellRead_writeCell_other {c d : Cell} (v : Byte) (hne : c ≠ d) : cellRead d (writeCell c v s) = cellRead d s := by
  have index {i j : Nat} {f : Nat → Cell} (hf : f i ≠ f j) : j ≠ i := fun e => hf (e ▸ rfl)
  cases c <;> cases d <;> try rfl
  case ram.ram => exact Memory.read_write_other (fits_iff.mp h.ramFits).1 v (index hne)
  case prgRam.prgRam => exact Memory.read_write_other (fits_iff.mp h.prgRamFits).1 v (index hne)
  case chrRam.chrRam => exact Memory.read_write_other (fits_iff.mp h.chrRamFits).1 v (index hne)
  case oam.oam => exact Memory.read_write_other (fits_iff.mp h.oamFits).1 v (index hne)
  case ciram.ciram => exact Memory.read_write_other (fits_iff.mp h.ciramFits).1 v (index hne)
  case pal.pal =>
    exact congrArg (BitVec.setWidth 8) (Memory.read_write_other (fits_iff.mp h.palFits).1 _ (index hne))

theorem storedIn_writeCell (c : Cell) (v : Byte) : StoredIn (some c) v s (writeCell c v s) where
  stored := by
    rintro d ⟨⟩
    exact cellRead_writeCell_same h c v
  others d hd := cellRead_writeCell_other h v fun e => hd (congrArg some e)

/-! The writes by region -/

/-- A write in the picture unit's address space stores in the cell it resolves to (20_memory.md R79). -/
theorem storedIn_ppuMemWrite (a : BitVec 14) (v : Byte) : StoredIn (ppuCell a s) v s (ppuMemWrite a v s) := by
  unfold ppuMemWrite ppuCell
  cases ppuResolve s.ppu.mirroring a with
  | chr n =>
    dsimp only [chrWrite]
    split
    · exact storedIn_writeCell h (.chrRam (chrIndex n s)) v
    · exact SameCells.storedIn v fun _ => rfl
  | ciram i => exact storedIn_writeCell h (.ciram i) v
  | palette i => exact storedIn_writeCell h (.pal i) v

/-- Setting the latch before the write, and advancing `v` after it, changes no cell (20_memory.md R76). -/
theorem storedIn_dataWrite (v : Byte) : StoredIn (ppuCell (vramAddr s.ppu) s) v s (dataWrite v s) := by
  have hlatch : Inv (s.setPpu { s.ppu with latch := v }) := { h with }
  refine (storedIn_ppuMemWrite hlatch (vramAddr s.ppu) v).congr ?_ ?_ <;> intro d <;> cases d <;> rfl

end

/-- A write of a register other than the OAM and picture data ports stores in no cell. -/
theorem ppuWrite_sameCells {r : PpuReg} (v : Byte) (s : State) (hoam : r ≠ .oamData) (hdata : r ≠ .data) :
    SameCells s (ppuWrite r v s) := by
  intro d
  cases r with
  | ctrl | mask | status | oamAddr => cases d <;> rfl
  | scroll => dsimp only [ppuWrite, scrollWrite]; split <;> cases d <;> rfl
  | addr => dsimp only [ppuWrite, addrWrite]; split <;> cases d <;> rfl
  | oamData => exact absurd rfl hoam
  | data => exact absurd rfl hdata

/-- A register write stores in the cell of its data port, if it is one (20_memory.md R71, R76). -/
theorem storedIn_ppuWrite {a : Word} {r : PpuReg} {s : State} (h : Inv s) (hr : resolve a = .ppu r) (v : Byte) :
    StoredIn (storedCell a s) v s (ppuWrite r v s) := by
  rw [storedCell, hr]
  cases r with
  | oamData =>
    refine (storedIn_writeCell h (.oam s.ppu.oamaddr.toNat) v).congr (fun _ => rfl) ?_
    intro d
    cases d <;> rfl
  | data => exact storedIn_dataWrite h v
  | ctrl | mask | status | oamAddr | scroll | addr =>
    exact (ppuWrite_sameCells v s (by decide) (by decide)).storedIn v

/-- A load-register write stores in no cell (20_memory.md R55). -/
theorem mapWrite_sameCells (a : Word) (v : Byte) (s : State) : SameCells s (mapWrite a v s) := by
  rw [mapWrite_eq]
  intro d
  cases d <;> rfl

/-- Settles O32, by the cell of each region's write. -/
theorem busWriteStoresInOneCell : Obligations.BusWriteStoresInOneCell := by
  intro a v s t h hw
  have hst : StoredIn (storedCell a s) v s t := by
    rcases busWrite_cases hw with ⟨i, hr, rfl⟩ | ⟨r, hr, rfl⟩ | ⟨i, hr, _, rfl⟩ | ⟨hr, rfl⟩
    · rw [storedCell, hr]
      exact storedIn_writeCell h (.ram i) v
    · exact storedIn_ppuWrite h hr v
    · rw [storedCell, hr]
      exact storedIn_writeCell h (.prgRam i) v
    · rw [storedCell, hr]
      exact (mapWrite_sameCells a v s).storedIn v
  exact ⟨fun c hc => by rw [hst.stored c hc]; cases c <;> rfl, hst.others⟩

end Sys2Proof.Machine
end

section
/-! PROOF. A step advances the picture unit by its cycles times the tick ratio (20_memory.md R64, 40_dispatch.md R97,
60_exceptions.md R185): time advances it one dot a tick, and nothing else moves it. -/
namespace Sys2Proof.Machine

/-! The passing of time -/

/-- One tick is one dot (60_exceptions.md R179). -/
theorem position_advanceDot {p : Ppu} (h : p.scanline ≤ 261 ∧ p.cycle ≤ 340) :
    position (advanceDot p) = position p + 1 := by
  obtain ⟨hscanline, hcycle⟩ := h
  unfold advanceDot
  split_ifs with hc hl <;> simp only [position] <;> omega

/-- The events of a tick leave the position alone. -/
theorem position_vblEvents (s : State) : position (vblEvents s).ppu = position s.ppu := by
  unfold vblEvents
  split_ifs <;> rfl

theorem position_pending (p : Ppu) (n : Nat) : position { p with pending := n } = position p := rfl

theorem position_tick {s : State} (h : s.ppu.scanline ≤ 261 ∧ s.ppu.cycle ≤ 340) :
    position (tick s).ppu = position s.ppu + 1 :=
  (position_vblEvents _).trans (position_advanceDot h)

theorem position_drain {n : Nat} {s : State} (h : s.ppu.scanline ≤ 261 ∧ s.ppu.cycle ≤ 340) :
    position (drain n s).ppu = position s.ppu + n := by
  induction n generalizing s with
  | zero => rw [drain, Nat.add_zero]
  | succ k ih =>
    rw [drain, ih (by exact tick_dotInRange h), State.setPpu_ppu, position_pending, position_tick h]
    omega

/-- The catch-up consumes its cycles' ticks and any pending ones. -/
theorem position_elapse {c : Nat} {s : State} (h : s.ppu.scanline ≤ 261 ∧ s.ppu.cycle ≤ 340) :
    position (elapse c s).ppu = position s.ppu + (s.ppu.pending + c * ticksPerCycle s.cfg) :=
  position_drain (s := (s.setCyc (s.cyc + c)).setPpu
    { s.ppu with pending := s.ppu.pending + c * ticksPerCycle s.cfg }) h

/-! The steps -/

/-- CYC has not fallen, and the picture unit's position has grown by the growth of CYC times the tick ratio. -/
def AdvancedByCycles (s t : State) : Prop :=
  s.cyc ≤ t.cyc ∧ position t.ppu = position s.ppu + (t.cyc - s.cyc) * ticksPerCycle s.cfg

section
variable {s u : State}

theorem SameClock.position (h : SameClock s u) : position u.ppu = position s.ppu := by
  simp only [Machine.position, h.scanline, h.cycle, h.frame]

/-- A recorded fault takes no time (60_exceptions.md R169). -/
theorem SameClock.setFault_advancedByCycles (h : SameClock s u) (r : Option FaultRecord) :
    AdvancedByCycles s (u.setFault r) := by
  refine ⟨h.cyc.ge, ?_⟩
  rw [State.setFault_ppu, State.setFault_cyc, h.position, h.cyc, Nat.sub_self, Nat.zero_mul, Nat.add_zero]

/-- What leaves the clock alone, and then takes `c` cycles. -/
theorem SameClock.elapse_advancedByCycles (h : SameClock s u) (hs : Inv s) (c : Nat) : AdvancedByCycles s (elapse c u) := by
  obtain ⟨hscanline, hcycle, hpending⟩ := hs.dotInRange
  have hpos := position_elapse (c := c) (s := u) ⟨h.scanline ▸ hscanline, h.cycle ▸ hcycle⟩
  rw [h.position, h.pending, hpending, h.cfg, Nat.zero_add] at hpos
  refine ⟨?_, ?_⟩ <;> rw [elapse_cyc, h.cyc]
  · exact Nat.le_add_right _ _
  · rw [hpos, Nat.add_sub_cancel_left]

end

/-- The state that an access leaves, whether it answers or fails. -/
def Access.after {α : Type} : Access α → State
  | .ok _ s => s
  | .raise _ s => s

theorem busRead_after (a : Word) (s : State) : SameButReads s (busRead a s).after := by
  cases h : busRead a s with
  | ok v t => exact busRead_sameButReads h
  | raise k t => rw [(busRead_raise h).1]; exact .refl s

theorem SameButReads.andThen {α β : Type} {r : Access α} {f : α → State → Access β} {s : State}
    (h : SameButReads s r.after) (hf : ∀ v t, SameButReads t (f v t).after) : SameButReads s (r.andThen f).after := by
  cases r with
  | ok v t => exact h.trans (hf v t)
  | raise k t => exact h

/-- A fetch changes only what register reads can change, whether it succeeds or fails (40_dispatch.md R98, R101). -/
theorem fetch_after (s : State) : SameButReads s (fetch s).after := by
  refine (busRead_after s.pc s).andThen fun op t => ?_
  split_ifs
  · exact .refl t
  · exact .refl t
  · unfold fetchOperands
    split
    · exact (busRead_after _ t).andThen fun _ u => .refl u
    · exact (busRead_after _ t).andThen fun _ u => (busRead_after _ u).andThen fun _ w => .refl w
    · exact .refl t

theorem exec_advancedByCycles {i : Instr} {s u t : State} (hs : Inv s) (hu : SameClock s u) (h : exec i u = .next t) :
    AdvancedByCycles s t := by
  cases exec_ends i u with
  | completes c w _ _ same eq =>
    cases eq.symm.trans h
    exact (hu.trans same).elapse_advancedByCycles hs c
  | faults k w same _ eq =>
    cases eq.symm.trans h
    exact (hu.trans same.sameClock).setFault_advancedByCycles _

/-- Settles O35: the NMI entry, or a fetch and then an instruction or a fault. -/
theorem stepAdvancesPictureUnitByItsCycles : Obligations.StepAdvancesPictureUnitByItsCycles := by
  intro s t hs h
  show AdvancedByCycles s t
  unfold step at h
  split at h
  · cases h
  split_ifs at h with hnmi
  · cases h
    have hclear : SameClock s (s.setNmiPending false) := ⟨rfl, rfl, rfl, rfl, rfl, rfl, rfl⟩
    exact (hclear.trans (enterInterrupt_sameClock _ _ _ _)).elapse_advancedByCycles hs 7
  · have hf := (fetch_after s).sameClock
    cases hr : fetch s with
    | ok i u =>
      rw [hr] at h hf
      exact exec_advancedByCycles hs hf h
    | raise k u =>
      rw [hr] at h hf
      cases h
      exact SameClock.setFault_advancedByCycles (u := u) hf _

end Sys2Proof.Machine
end

section
/-! PROOF. The decoder and the encoder are inverse, and the opcode map is total (30_encoding.md R88, R89, R92 to R94). -/
namespace Sys2Proof

/-! Well-formed instructions and their encodings -/

/-- The per-instruction facts of Laws/PerInstr.lean, for every instruction. -/
theorem encoding_statement (i : Instr) : Laws.Encoding.Statement i :=
  match i with
  | .lda o => Laws.Encoding.lda o
  | .ldx o => Laws.Encoding.ldx o
  | .ldy o => Laws.Encoding.ldy o
  | .sta l => Laws.Encoding.sta l
  | .stx l => Laws.Encoding.stx l
  | .sty l => Laws.Encoding.sty l
  | .tax => Laws.Encoding.tax
  | .tay => Laws.Encoding.tay
  | .txa => Laws.Encoding.txa
  | .tya => Laws.Encoding.tya
  | .tsx => Laws.Encoding.tsx
  | .txs => Laws.Encoding.txs
  | .pha => Laws.Encoding.pha
  | .php => Laws.Encoding.php
  | .pla => Laws.Encoding.pla
  | .plp => Laws.Encoding.plp
  | .adc o => Laws.Encoding.adc o
  | .sbc o => Laws.Encoding.sbc o
  | .and o => Laws.Encoding.and o
  | .ora o => Laws.Encoding.ora o
  | .eor o => Laws.Encoding.eor o
  | .cmp o => Laws.Encoding.cmp o
  | .cpx o => Laws.Encoding.cpx o
  | .cpy o => Laws.Encoding.cpy o
  | .bit l => Laws.Encoding.bit l
  | .inc l => Laws.Encoding.inc l
  | .dec l => Laws.Encoding.dec l
  | .inx => Laws.Encoding.inx
  | .iny => Laws.Encoding.iny
  | .dex => Laws.Encoding.dex
  | .dey => Laws.Encoding.dey
  | .asl o => Laws.Encoding.asl o
  | .lsr o => Laws.Encoding.lsr o
  | .rol o => Laws.Encoding.rol o
  | .ror o => Laws.Encoding.ror o
  | .jmp t => Laws.Encoding.jmp t
  | .jsr a => Laws.Encoding.jsr a
  | .rts => Laws.Encoding.rts
  | .bpl off => Laws.Encoding.bpl off
  | .bmi off => Laws.Encoding.bmi off
  | .bvc off => Laws.Encoding.bvc off
  | .bvs off => Laws.Encoding.bvs off
  | .bcc off => Laws.Encoding.bcc off
  | .bcs off => Laws.Encoding.bcs off
  | .bne off => Laws.Encoding.bne off
  | .beq off => Laws.Encoding.beq off
  | .brk => Laws.Encoding.brk
  | .rti => Laws.Encoding.rti
  | .clc => Laws.Encoding.clc
  | .sec => Laws.Encoding.sec
  | .cli => Laws.Encoding.cli
  | .sei => Laws.Encoding.sei
  | .clv => Laws.Encoding.clv
  | .cld => Laws.Encoding.cld
  | .sed => Laws.Encoding.sed
  | .nop => Laws.Encoding.nop
  | .unsupported op => Laws.Encoding.unsupported op

theorem wellFormed_iff_opcode (i : Instr) : i.wellFormed = true ↔ ∃ op, i.opcode = some op :=
  (encoding_statement i).1.trans Option.isSome_iff_exists

section
variable {i : Instr} {op : Byte} (h : i.opcode = some op)
include h

theorem encode_of_opcode : encode i = op :: i.operandBytes := ((encoding_statement i).2 op h).1

theorem encode_length_of_opcode : (encode i).length = i.length := ((encoding_statement i).2 op h).2

end

theorem unsupported_opcode_iff {o op : Byte} :
    (Instr.unsupported o).opcode = some op ↔ o = op ∧ o ∈ undocumentedOpcodes := by
  simp only [Instr.opcode, Option.ite_none_right_eq_some, List.contains_iff_mem, Option.some.injEq, and_comm]

/-! The opcode map -/

theorem decodeOp_wellFormed (op b1 b2 : Byte) : (decodeOp op b1 b2).wellFormed = true :=
  (wellFormed_iff_opcode _).mpr ⟨op, opcode_decodeOp op b1 b2⟩

theorem decodeOp_undocumented {op : Byte} (b1 b2 : Byte) (h : op ∈ undocumentedOpcodes) :
    decodeOp op b1 b2 = .unsupported op := by
  unfold undocumentedOpcodes at h
  fin_cases h <;> rfl

/-- The decoder keeps the opcode byte, so only the undocumented bytes give `unsupported`. -/
theorem decodeOp_eq_unsupported_iff {op b1 b2 o : Byte} :
    decodeOp op b1 b2 = .unsupported o ↔ o = op ∧ op ∈ undocumentedOpcodes := by
  constructor
  · intro h
    obtain ⟨rfl, ho⟩ := unsupported_opcode_iff.mp (h ▸ opcode_decodeOp op b1 b2)
    exact ⟨rfl, ho⟩
  · rintro ⟨rfl, ho⟩
    exact decodeOp_undocumented b1 b2 ho

theorem decodeOp_eq_nop_iff {op b1 b2 : Byte} : decodeOp op b1 b2 = .nop ↔ op = 0xEA := by
  constructor
  · intro h
    have hop : Instr.nop.opcode = some op := h ▸ opcode_decodeOp op b1 b2
    cases hop
    rfl
  · rintro rfl
    rfl

theorem undocumentedOpcodes_nodup : undocumentedOpcodes.Nodup := by decide

/-- Settles O3: the decoder keeps the opcode byte, and exactly the listed bytes give `unsupported`. -/
theorem everyOpcodeIsDefinedOrUnsupported : Obligations.EveryOpcodeIsDefinedOrUnsupported := by
  refine ⟨fun op b1 b2 => ⟨decodeOp_wellFormed op b1 b2, opcode_decodeOp op b1 b2, ?_, ?_, decodeOp_eq_nop_iff⟩,
    rfl, undocumentedOpcodes_nodup⟩ <;> simp [decodeOp_eq_unsupported_iff]

/-- Settles O4, by running the decoder on each word. -/
theorem sampleWordsDecode : Obligations.SampleWordsDecode := by
  unfold Obligations.SampleWordsDecode
  decide

/-! Decoding an encoding -/

/-- The two bytes of a 16-bit operand, low byte first, are read back as the operand. For a concrete opcode and instruction the
hypotheses are computations. -/
theorem decode_wordBytes {i : Instr} {op : Byte} (a : Word) (rest : List Byte) (hlen : opcodeLength op = 3 := by rfl)
    (hop : ∀ b1 b2, a = mkWord b2 b1 → decodeOp op b1 b2 = i := by rintro b1 b2 rfl; rfl) :
    decode (op :: (wordBytes a ++ rest)) = .ok (i, rest) := by
  rw [wordBytes, List.cons_append, List.cons_append, List.nil_append, decode_three hlen, hop _ _ (mkWord_hi_lo a).symm]

theorem decode_undocumented {op : Byte} (h : op ∈ undocumentedOpcodes) (rest : List Byte) :
    decode (op :: rest) = .ok (.unsupported op, rest) := by
  have hop : decodeOp op 0 0 = .unsupported op := decodeOp_undocumented 0 0 h
  have hlen : opcodeLength op = 1 := by rw [opcodeLength, hop]; rfl
  rw [decode_one hlen, hop]

/-- By the operand: none or one byte is read back as it stands, a word by `decode_wordBytes`. A mode the mnemonic lacks has no
opcode. -/
theorem decode_opcode_operandBytes {i : Instr} {op : Byte} (h : i.opcode = some op) (rest : List Byte) :
    decode (op :: (i.operandBytes ++ rest)) = .ok (i, rest) := by
  cases i with
  | lda o | ldx o | ldy o | adc o | sbc o | and o | ora o | eor o | cmp o | cpx o | cpy o =>
    cases o with
    | imm v => cases h; rfl
    | mem l =>
      cases l with
      | zp n | zpx n | zpy n | izx n | izy n => cases h <;> rfl
      | abs a | absx a | absy a => cases h <;> exact decode_wordBytes a rest
  | sta l | stx l | sty l | bit l =>
    cases l with
    | zp n | zpx n | zpy n | izx n | izy n => cases h <;> rfl
    | abs a | absx a | absy a => cases h <;> exact decode_wordBytes a rest
  | inc l | dec l =>
    cases l with
    | zp n | zpx n => cases h; rfl
    | abs a | absx a => cases h; exact decode_wordBytes a rest
  | asl o | lsr o | rol o | ror o =>
    cases o with
    | acc => cases h; rfl
    | mem l =>
      cases l with
      | zp n | zpx n => cases h; rfl
      | abs a | absx a => cases h; exact decode_wordBytes a rest
  | jmp t =>
    cases t with
    | abs a | ind a => cases h; exact decode_wordBytes a rest
  | jsr a => cases h; exact decode_wordBytes a rest
  | bpl off | bmi off | bvc off | bvs off | bcc off | bcs off | bne off | beq off => cases h; rfl
  | tax | tay | txa | tya | tsx | txs | pha | php | pla | plp | inx | iny | dex | dey
  | rts | brk | rti | clc | sec | cli | sei | clv | cld | sed | nop => cases h; rfl
  | unsupported o =>
    obtain ⟨rfl, ho⟩ := unsupported_opcode_iff.mp h
    exact decode_undocumented ho rest

/-- Settles O1, by `decode_opcode_operandBytes`. -/
theorem decodeInvertsEncode : Obligations.DecodeInvertsEncode := by
  intro i rest hwf
  obtain ⟨op, hop⟩ := (wellFormed_iff_opcode i).mp hwf
  rw [encode_of_opcode hop, List.cons_append]
  exact decode_opcode_operandBytes hop rest

/-! Encoding what was decoded -/

/-- The operand bytes of an opcode of length `n` whose bytes after the first are `b1` and `b2` (Table R89). -/
def operandBytesOfLength (n : Nat) (b1 b2 : Byte) : List Byte :=
  match n with
  | 2 => [b1]
  | 3 => wordBytes (mkWord b2 b1)
  | _ => []

theorem operandBytes_decodeOp (op b1 b2 : Byte) :
    (decodeOp op b1 b2).operandBytes = operandBytesOfLength (opcodeLength op) b1 b2 := by
  have h : ∀ n : Fin 256, (decodeOp (BitVec.ofFin n) b1 b2).operandBytes =
      operandBytesOfLength (opcodeLength (BitVec.ofFin n)) b1 b2 := by
    intro n
    fin_cases n <;> rfl
  exact h op.toFin

theorem wordBytes_mkWord (hi lo : Byte) : wordBytes (mkWord hi lo) = [lo, hi] := by
  rw [wordBytes, hiByte_mkWord, loByte_mkWord]

/-- What the decoder reads: an opcode byte and as many operand bytes as its length says. -/
theorem decode_ok {bytes rest : List Byte} {i : Instr} (h : decode bytes = .ok (i, rest)) :
    ∃ op b1 b2, i = decodeOp op b1 b2 ∧ bytes = op :: (operandBytesOfLength (opcodeLength op) b1 b2 ++ rest) := by
  unfold decode at h
  split at h
  · cases h
  next op rest' =>
    split at h <;> cases h
    next hlen => exact ⟨op, 0, 0, rfl, by rw [hlen]; rfl⟩
    next b1 hlen => exact ⟨op, b1, 0, rfl, by rw [hlen]; rfl⟩
    next b1 b2 hlen => exact ⟨op, b1, b2, rfl, by rw [hlen, operandBytesOfLength, wordBytes_mkWord]; rfl⟩

/-- Settles O2, by the opcode byte and operand bytes that the decoder read. -/
theorem encodeInvertsDecode : Obligations.EncodeInvertsDecode := by
  intro bytes rest i h
  obtain ⟨op, b1, b2, rfl, rfl⟩ := decode_ok h
  have hop := opcode_decodeOp op b1 b2
  refine ⟨decodeOp_wellFormed op b1 b2, ?_, encode_length_of_opcode hop, ?_⟩
  · rw [encode_of_opcode hop, operandBytes_decodeOp, List.cons_append]
  · rcases Instr.length_cases (decodeOp op b1 b2) with hl | hl | hl <;> omega

end Sys2Proof
end

section
/-! PROOF. An opcode byte with no registered handler faults (30_encoding.md R93, 60_exceptions.md R169, R176). -/
namespace Sys2Proof.Machine

theorem documented_eq_false {op : Byte} (h : op ∈ undocumentedOpcodes) : documented op = false := by
  rw [documented, decodeOp_undocumented 0 0 h]

/-- R93: the 105 undocumented bytes and the omitted ones have no handler. -/
theorem handled_eq_false {op : Byte} {c : Config} (h : op ∈ undocumentedOpcodes ∨ op ∈ c.params.omitted) :
    handled op c = false := by
  rcases h with h | h
  · rw [handled, documented_eq_false h, Bool.false_and]
  · rw [handled, List.contains_iff_mem.mpr h, Bool.not_true, Bool.and_false]

/-- Without a handler no operand byte is fetched. -/
theorem fetch_unhandled {s t : State} {op : Byte} (hr : busRead s.pc s = .ok op t) (h : handled op t.cfg = false) :
    fetch s = .ok (.unsupported op) t := by
  rw [fetch, hr, Access.andThen_ok, h]
  rfl

theorem step_of_fetch {s t : State} {i : Instr} (hf : s.fault = none) (hn : ¬ nmiTaken s) (h : fetch s = .ok i t) :
    step s = exec i t := by
  unfold nmiTaken at hn
  simp only [step, hf, if_neg hn, h, Access.run_ok]

theorem exec_unsupported (op : Byte) (s : State) :
    exec (.unsupported op) s = .next { s with fault := some { kind := .unsupportedOpcode op s.pc, pc := s.pc } } := rfl

/-- Settles O6: the fetch answers `unsupported`, and the opcode's read has moved neither PC nor the configuration. -/
theorem unregisteredOpcodeFaults : Obligations.UnregisteredOpcodeFaults := by
  refine ⟨fun s t op hf hn hr h => ?_, fun s op => exec_unsupported op s⟩
  have hread : SameButReads s t := busRead_sameButReads hr
  have hcfg : t.cfg = s.cfg := hread.sameClock.cfg
  have hpc : t.pc = s.pc := by rw [hread]
  rw [← hcfg] at h
  rw [step_of_fetch hf hn (fetch_unhandled hr (handled_eq_false h)), exec_unsupported, hpc]

end Sys2Proof.Machine
end

section
/-! PROOF. Effective addresses and cycles (30_encoding.md Table R91, 40_dispatch.md R105, R106). -/
namespace Sys2Proof.Machine

/-- The number that the two zero-page bytes at `p` and `p + 1`, both mod 256, hold low byte first (Table R91). -/
def pointerValue (s : State) (p : Nat) : Nat :=
  (s.ram.read (p % 256)).toNat + 256 * (s.ram.read ((p + 1) % 256)).toNat

theorem pointerValue_mod (s : State) (p : Nat) : pointerValue s (p % 256) = pointerValue s p := by
  simp only [pointerValue, Nat.mod_mod, Nat.mod_add_mod]

theorem zeroPagePtr_toNat (p : Byte) (s : State) : (zeroPagePtr p s).toNat = pointerValue s p.toNat := by
  have hlo : p.toNat % 256 = p.toNat := Nat.mod_eq_of_lt p.isLt
  have hhi : (p + 1).toNat = (p.toNat + 1) % 256 := BitVec.toNat_add p 1
  rw [zeroPagePtr, mkWord_toNat, zeroPage, zeroPage, hhi, pointerValue, hlo]
  omega

theorem zeroPagePtr_add_toNat (n x : Byte) (s : State) :
    (zeroPagePtr (n + x) s).toNat = pointerValue s (n.toNat + x.toNat) := by
  rw [zeroPagePtr_toNat, BitVec.toNat_add, pointerValue_mod]

theorem zext16_add_toNat (n x : Byte) : (zext16 (n + x)).toNat = (n.toNat + x.toNat) % 256 := by
  rw [zext16_toNat, BitVec.toNat_add]

theorem add_zext16_toNat (w : Word) (x : Byte) : (w + zext16 x).toNat = (w.toNat + x.toNat) % 65536 := by
  rw [BitVec.toNat_add, zext16_toNat]

/-- Pages are the quotients by 256 (40_dispatch.md R106). -/
theorem pagesDiffer_iff {p q : Word} : pagesDiffer p q = true ↔ p.toNat / 256 ≠ q.toNat / 256 := by
  rw [pagesDiffer, bne_iff_ne, Ne, ← BitVec.toNat_inj, hiByte_toNat, hiByte_toNat]

theorem add_pagesDiffer (base : Nat) (p q : Word) :
    base + (pagesDiffer p q).toNat = if p.toNat / 256 ≠ q.toNat / 256 then base + 1 else base := by
  simp only [← pagesDiffer_iff]
  cases pagesDiffer p q <;> rfl

theorem ea_izy_toNat (n : Byte) (s : State) :
    (ea (.izy n) s).toNat = (pointerValue s n.toNat + s.y.toNat) % 65536 := by
  rw [ea, add_zext16_toNat, zeroPagePtr_toNat]

/-- The reference address of the page test is the pointer before Y is added. -/
theorem readCycles_izy (n : Byte) (s : State) :
    readCycles (.mem (.izy n)) s =
      if pointerValue s n.toNat / 256 ≠ (ea (.izy n) s).toNat / 256 then 5 + 1 else 5 := by
  rw [← zeroPagePtr_toNat]
  exact add_pagesDiffer 5 (zeroPagePtr n s) _

/-- Zero page is RAM, and no access of RAM fails (20_memory.md R48). -/
theorem busRead_ofNat_zeroPage (n : Byte) (s : State) :
    busRead (BitVec.ofNat 16 n.toNat) s = .ok (s.ram.read n.toNat) s := by
  rw [BitVec.ofNat_toNat]
  exact busRead_zeroPage n s

/-- Settles O36: the effective addresses, the cycles of reads, of stores and of read-modify-writes, and the zero-page read. -/
theorem effectiveAddressesAndCycles : Obligations.EffectiveAddressesAndCycles := by
  intro s n w
  refine ⟨⟨zext16_toNat n, zext16_add_toNat n s.x, zext16_add_toNat n s.y, rfl, add_zext16_toNat w s.x,
      add_zext16_toNat w s.y, zeroPagePtr_add_toNat n s.x s, ea_izy_toNat n s⟩,
    ⟨rfl, rfl, rfl, rfl, rfl, rfl, ?absx, ?absy, readCycles_izy n s⟩,
    ⟨rfl, rfl, rfl, rfl, rfl, rfl, rfl, rfl⟩, ⟨rfl, rfl, rfl, rfl⟩, busRead_ofNat_zeroPage n s⟩
  case absx => exact add_pagesDiffer 4 w (ea (.absx w) s)
  case absy => exact add_pagesDiffer 4 w (ea (.absy w) s)

end Sys2Proof.Machine
end

section
/-! PROOF. The fetch in the order of its checks (40_dispatch.md R98, R101, 60_exceptions.md R176), the step that follows it, and the
driver's operations that read the same bytes (40_dispatch.md R108). -/
namespace Sys2Proof.Machine

/-! Handled and decimal opcodes -/

theorem documented_iff {op : Byte} : documented op = true ↔ op ∉ undocumentedOpcodes := by
  constructor
  · intro h hop
    rw [documented_eq_false hop] at h
    cases h
  · intro h
    unfold documented
    split
    · next o ho => exact absurd (decodeOp_eq_unsupported_iff.mp ho).2 h
    · rfl

/-- HANDLED is the documented opcodes without the omitted ones (30_encoding.md R93). -/
theorem handled_iff {op : Byte} {c : Config} :
    handled op c = true ↔ op ∉ undocumentedOpcodes ∧ op ∉ c.params.omitted := by
  rw [handled, Bool.and_eq_true, documented_iff, Bool.not_eq_true', ← Bool.not_eq_true, List.contains_iff_mem]

/-- The opcodes of ADC and SBC are the decimal ones (43_arith_logic.md R127, R128). -/
theorem mem_decimalOpcodes {i : Instr} {o : Src} {op : Byte} (hi : i = .adc o ∨ i = .sbc o) (h : i.opcode = some op) :
    op ∈ decimalOpcodes := by
  rcases hi with rfl | rfl <;> cases o with
    | imm v => cases h; decide
    | mem l => cases l <;> cases h <;> decide

theorem isDecimalOp_iff {op : Byte} : isDecimalOp op = true ↔ op ∈ decimalOpcodes := by
  constructor
  · intro h
    unfold isDecimalOp at h
    split at h
    · next o ho => exact mem_decimalOpcodes (.inl ho) (opcode_decodeOp op 0 0)
    · next o ho => exact mem_decimalOpcodes (.inr ho) (opcode_decodeOp op 0 0)
    · cases h
  · intro h
    unfold decimalOpcodes at h
    fin_cases h <;> rfl

theorem decimalTrap_iff {s : State} :
    decimalTrap s = true ↔ s.cfg.params.decimalPolicy = .refuse ∧ s.flags.d = true := by
  rw [decimalTrap, Bool.and_eq_true, decide_eq_true_iff]

theorem SameButReads.decimalTrap {s t : State} (h : SameButReads s t) : decimalTrap t = decimalTrap s := by
  rw [h]; rfl

theorem SameButReads.pc {s t : State} (h : SameButReads s t) : t.pc = s.pc := by rw [h]

/-- No ADC or SBC opcode is undocumented. -/
theorem decimalOpcodes_documented : ∀ op ∈ decimalOpcodes, op ∉ undocumentedOpcodes := by
  decide

/-! The operand bytes, one after another -/

section
variable {op b1 b2 : Byte} {pc : Word} {t u v : State} {k : ErrorKind}

theorem fetchOperands_one (hlen : opcodeLength op = 1) : fetchOperands op pc t = .ok (decodeOp op 0 0) t := by
  simp only [fetchOperands, hlen]

theorem fetchOperands_two (hlen : opcodeLength op = 2) (h1 : busRead (pc + 1) t = .ok b1 u) :
    fetchOperands op pc t = .ok (decodeOp op b1 0) u := by
  simp only [fetchOperands, hlen, h1, Access.andThen_ok]

theorem fetchOperands_three (hlen : opcodeLength op = 3) (h1 : busRead (pc + 1) t = .ok b1 u)
    (h2 : busRead (pc + 2) u = .ok b2 v) : fetchOperands op pc t = .ok (decodeOp op b1 b2) v := by
  simp only [fetchOperands, hlen, h1, h2, Access.andThen_ok]

theorem fetchOperands_raise_first (hlen : 2 ≤ opcodeLength op) (h1 : busRead (pc + 1) t = .raise k u) :
    fetchOperands op pc t = .raise k u := by
  rcases opcodeLength_cases op with hl | hl | hl
  · omega
  · simp only [fetchOperands, hl, h1, Access.andThen_raise]
  · simp only [fetchOperands, hl, h1, Access.andThen_raise]

theorem fetchOperands_raise_second (hlen : opcodeLength op = 3) (h1 : busRead (pc + 1) t = .ok b1 u)
    (h2 : busRead (pc + 2) u = .raise k v) : fetchOperands op pc t = .raise k v := by
  simp only [fetchOperands, hlen, h1, h2, Access.andThen_ok, Access.andThen_raise]

theorem fetchOperands_after (op : Byte) (pc : Word) (t : State) : SameButReads t (fetchOperands op pc t).after := by
  unfold fetchOperands
  split
  · exact (busRead_after _ t).andThen fun _ u => .refl u
  · exact (busRead_after _ t).andThen fun _ u => (busRead_after _ u).andThen fun _ w => .refl w
  · exact .refl t

end

/-! The fetch and the step -/

section
variable {s t u : State} {op : Byte} {k : ErrorKind}

theorem fetch_raise_opcode (hr : busRead s.pc s = .raise k u) : fetch s = .raise k s := by
  rw [fetch, hr, (busRead_raise hr).1, Access.andThen_raise]

/-- The decimal check comes after the opcode fetch and before any operand byte (60_exceptions.md R176). -/
theorem fetch_decimal (hr : busRead s.pc s = .ok op t) (hop : handled op s.cfg = true) (hdec : op ∈ decimalOpcodes)
    (htrap : decimalTrap s = true) : fetch s = .raise (.decimalUnsupported s.pc) t := by
  have hread := busRead_sameButReads hr
  have hcfg : t.cfg = s.cfg := hread.sameClock.cfg
  rw [fetch, hr, Access.andThen_ok, hcfg, hop, isDecimalOp_iff.mpr hdec, hread.decimalTrap, htrap]
  rfl

theorem fetch_operands (hr : busRead s.pc s = .ok op t) (hop : handled op s.cfg = true)
    (hdec : ¬ (op ∈ decimalOpcodes ∧ decimalTrap s = true)) : fetch s = fetchOperands op s.pc t := by
  have hread := busRead_sameButReads hr
  have hcfg : t.cfg = s.cfg := hread.sameClock.cfg
  rw [← isDecimalOp_iff, ← Bool.and_eq_true, ← hread.decimalTrap] at hdec
  rw [fetch, hr, Access.andThen_ok, hcfg, hop, if_neg (by decide), if_neg hdec]

theorem step_of_fetch_raise (hf : s.fault = none) (hn : ¬ nmiTaken s) (h : fetch s = .raise k t) :
    step s = .next (faultedWith k t) := by
  unfold nmiTaken at hn
  simp only [step, hf, if_neg hn, h, Access.run_raise]
  rfl

end

/-- Settles O60: each failing check ends the fetch with its error. -/
theorem fetchFaultsInOrder : Obligations.FetchFaultsInOrder := by
  refine ⟨fun s u k hf hn hr => ?opcode, fun s t op hf hn hr hom hdec hp hd => ?decimal,
    fun s t op hf hn hr hun hom hdec => ?operands⟩
  case opcode => exact step_of_fetch_raise hf hn (fetch_raise_opcode hr)
  case decimal =>
    have hop := handled_iff.mpr ⟨decimalOpcodes_documented op hdec, hom⟩
    exact step_of_fetch_raise hf hn (fetch_decimal hr hop hdec (decimalTrap_iff.mpr ⟨hp, hd⟩))
  case operands =>
    rw [← decimalTrap_iff] at hdec
    have hfetch := fetch_operands hr (handled_iff.mpr ⟨hun, hom⟩) hdec
    refine ⟨fun k u hlen h1 => ?_, fun b1 k u v hlen h1 h2 => ?_⟩
    · obtain ⟨rfl, _⟩ := busRead_raise h1
      exact step_of_fetch_raise hf hn (hfetch.trans (fetchOperands_raise_first hlen h1))
    · obtain ⟨rfl, _⟩ := busRead_raise h2
      exact step_of_fetch_raise hf hn (hfetch.trans (fetchOperands_raise_second hlen h1 h2))

/-! The bytes at PC are an encoding -/

/-- A byte that can be fetched with no side effect is what the bus reads. -/
theorem busRead_of_fetchByte {a : Word} {v : Byte} {s : State} (h : fetchByte a s = some v) : busRead a s = .ok v s := by
  unfold fetchByte at h
  cases hr : resolve a with
  | ram i | prgRom => rw [hr] at h; cases h; simp [busRead, accessFault, hr]
  | prgRam i =>
    rw [hr] at h
    dsimp only at h
    split at h
    · next hf =>
      cases h
      simp [busRead, Option.isNone_iff_eq_none.mp hf, hr]
    · cases h
  | ppu r | apuIo | testRegion | cartUnused => rw [hr] at h; cases h

/-- The opcode byte alone decides the length (30_encoding.md R89). -/
theorem length_of_decode {i : Instr} {op : Byte} {bytes rest : List Byte} (h : decode (op :: bytes) = .ok (i, rest)) :
    opcodeLength op = i.length := by
  obtain ⟨op', b1, b2, rfl, hbytes⟩ := decode_ok h
  cases hbytes
  exact (length_decodeOp op b1 b2).symm

/-- When the bytes from PC on are the encoding of an instruction, the operand fetches give that instruction. -/
theorem fetchOperands_encode {i : Instr} {op : Byte} {s : State} (hop : i.opcode = some op)
    (hbytes : ∀ k, k < i.length → fetchByte (s.pc + BitVec.ofNat 16 k) s = (encode i)[k]?) :
    fetchOperands op s.pc s = .ok i s := by
  have henc : encode i = op :: i.operandBytes := encode_of_opcode hop
  have hcount : i.operandBytes.length + 1 = i.length := by
    rw [← encode_length_of_opcode hop, henc, List.length_cons]
  have hdec := decode_opcode_operandBytes hop []
  rw [List.append_nil] at hdec
  have hlen : opcodeLength op = i.length := length_of_decode hdec
  have hread (k : Nat) (v : Byte) (hk : k < i.length) (hv : (encode i)[k]? = some v) :
      busRead (s.pc + BitVec.ofNat 16 k) s = .ok v s := busRead_of_fetchByte ((hbytes k hk).trans hv)
  rw [henc] at hread
  rcases hbs : i.operandBytes with _ | ⟨b1, _ | ⟨b2, _ | ⟨b3, bs⟩⟩⟩ <;>
    simp only [hbs, List.length_cons, List.length_nil] at hcount hdec hread
  · have hl : opcodeLength op = 1 := by omega
    rw [decode_one hl] at hdec
    cases hdec
    exact fetchOperands_one hl
  · have hl : opcodeLength op = 2 := by omega
    rw [decode_two hl] at hdec
    cases hdec
    exact fetchOperands_two hl (hread 1 b1 (by omega) rfl)
  · have hl : opcodeLength op = 3 := by omega
    rw [decode_three hl] at hdec
    cases hdec
    exact fetchOperands_three hl (hread 1 b1 (by omega) rfl) (hread 2 b2 (by omega) rfl)
  · rcases i.length_cases with hl | hl | hl <;> omega

/-- An ADC or SBC that `Refuse` refuses takes its fault (43_arith_logic.md R127, R128). -/
theorem exec_decimal {op b1 b2 : Byte} {s : State} (hdec : op ∈ decimalOpcodes) (htrap : decimalTrap s = true) :
    exec (decodeOp op b1 b2) s = takeFault (.decimalUnsupported s.pc) s := by
  unfold decimalOpcodes at hdec
  fin_cases hdec <;> exact if_pos htrap

/-- An instruction with an opcode is what the opcode byte and some operand bytes decode to. -/
theorem exists_decodeOp {i : Instr} {op : Byte} (h : i.opcode = some op) : ∃ b1 b2, i = decodeOp op b1 b2 := by
  obtain ⟨op', b1, b2, hi, hbytes⟩ := decode_ok (decode_opcode_operandBytes h [])
  obtain ⟨rfl, _⟩ := List.cons.inj hbytes
  exact ⟨b1, b2, hi⟩

/-- The step at the encoding of an instruction: `unsupported` without a handler, the decimal fault in the fetch as in `exec`,
else the instruction that the operand fetches give. -/
theorem step_of_encoding {i : Instr} {s : State} (hf : s.fault = none) (hn : ¬ nmiTaken s) (hwf : i.wellFormed = true)
    (hom : ∀ op, i.opcode = some op → op ∉ s.cfg.params.omitted)
    (hbytes : ∀ k, k < i.length → fetchByte (s.pc + BitVec.ofNat 16 k) s = (encode i)[k]?) : step s = exec i s := by
  obtain ⟨op, hop⟩ := (wellFormed_iff_opcode i).mp hwf
  obtain ⟨b1, b2, hi⟩ := exists_decodeOp hop
  have hpos : 0 < i.length := by rcases i.length_cases with hl | hl | hl <;> omega
  have hr : busRead s.pc s = .ok op s := by
    have h0 := hbytes 0 hpos
    rw [encode_of_opcode hop, BitVec.add_zero] at h0
    exact busRead_of_fetchByte h0
  by_cases hun : op ∈ undocumentedOpcodes
  · rw [hi, decodeOp_undocumented b1 b2 hun]
    exact step_of_fetch hf hn (fetch_unhandled hr (handled_eq_false (.inl hun)))
  have hhandled : handled op s.cfg = true := handled_iff.mpr ⟨hun, hom op hop⟩
  by_cases hdec : op ∈ decimalOpcodes ∧ decimalTrap s = true
  · obtain ⟨hmem, htrap⟩ := hdec
    rw [step_of_fetch_raise hf hn (fetch_decimal hr hhandled hmem htrap), hi, exec_decimal hmem htrap]
    rfl
  · exact step_of_fetch hf hn ((fetch_operands hr hhandled hdec).trans (fetchOperands_encode hop hbytes))

/-- Settles O5, by the operand fetches of each length. -/
theorem stepRunsInstructionAtPc : Obligations.StepRunsInstructionAtPc := by
  refine ⟨fun i s hf hn hwf hom hbytes => step_of_encoding hf hn hwf hom hbytes, fun s t op hf hn hr hun hom hdec => ?_⟩
  rw [← decimalTrap_iff] at hdec
  have hfetch := fetch_operands hr (handled_iff.mpr ⟨hun, hom⟩) hdec
  refine ⟨fun hlen => ?_, fun b1 u hlen h1 => ?_, fun b1 b2 u v hlen h1 h2 => ?_⟩ <;>
    refine step_of_fetch hf hn (hfetch.trans ?_)
  · exact fetchOperands_one hlen
  · exact fetchOperands_two hlen h1
  · exact fetchOperands_three hlen h1 h2

/-! The driver's operations -/

section
variable {a : Word} {s t : State} {op : Byte} {k : ErrorKind}

theorem hostOps_unreadable (hr : busRead a s = .raise k t) :
    opcodeLengthAt a s = .raise k t ∧ disassemble a s = .raise k t := by
  simp only [opcodeLengthAt, disassemble, hr, Access.andThen_raise, and_self]

theorem hostOps_unhandled (hr : busRead a s = .ok op t) (h : handled op t.cfg = false) :
    opcodeLengthAt a s = .raise (.invalidAddressingMode op) t ∧ disassemble a s = .raise (.unknownMnemonic op) t := by
  simp [opcodeLengthAt, disassemble, hr, h]

theorem opcodeLengthAt_handled (hr : busRead a s = .ok op t) (h : handled op t.cfg = true) :
    opcodeLengthAt a s = .ok (opcodeLength op) t := by
  simp only [opcodeLengthAt, hr, Access.andThen_ok, h, if_true]

/-- The text of a handled opcode is that of the instruction its operand fetches give. -/
theorem disassemble_handled (hr : busRead a s = .ok op t) (h : handled op t.cfg = true) :
    disassemble a s = (fetchOperands op a t).andThen fun i u => .ok (disassembleInstr a i) u := by
  simp only [disassemble, hr, Access.andThen_ok, h, if_true]

theorem opcodeLengthAt_after (a : Word) (s : State) : SameButReads s (opcodeLengthAt a s).after := by
  refine (busRead_after a s).andThen fun op t => ?_
  split <;> exact .refl t

theorem disassemble_after (a : Word) (s : State) : SameButReads s (disassemble a s).after := by
  refine (busRead_after a s).andThen fun op t => ?_
  split
  · exact (fetchOperands_after op a t).andThen fun _ u => .refl u
  · exact .refl t

/-- An operation that only reads leaves FAULT alone when it answers an error (40_dispatch.md R108). -/
theorem fault_of_raise {α : Type} {r : Access α} (h : SameButReads s r.after) (hr : r = .raise k t) : t.fault = s.fault := by
  rw [hr] at h
  exact h.sameClock.fault

end

theorem disassembly_texts : ∀ p, p ∈ disassemblyExamples → disassembleInstr 0x8000 p.1 = p.2 := by
  decide

/-- Settles O59, by what `disassemble` answers for a handled opcode and the texts of the examples. -/
theorem hostInspections : Obligations.HostInspections := by
  refine ⟨fun _ _ => rfl, fun a s t k hr => hostOps_unreadable hr,
    fun a s t op hr => ⟨fun h => ?unhandled, fun hun hom => ?handled⟩,
    fun a s t k h => ?fault, disassembly_texts, fun _ => ⟨rfl, rfl, rfl, rfl, rfl, rfl⟩⟩
  case unhandled =>
    rw [← (busRead_sameButReads hr).sameClock.cfg] at h
    exact hostOps_unhandled hr (handled_eq_false h)
  case handled =>
    rw [← (busRead_sameButReads hr).sameClock.cfg] at hom
    have hop : handled op t.cfg = true := handled_iff.mpr ⟨hun, hom⟩
    have hdis := disassemble_handled hr hop
    refine ⟨⟨_, opcodeLengthAt_handled hr hop, length_decodeOp op⟩, fun hlen => ?_, fun k u hlen h1 => ?_,
      fun b1 u hlen h1 => ?_, fun b1 u k v hlen h1 h2 => ?_, fun b1 b2 u v hlen h1 h2 => ?_⟩
    · rw [hdis, fetchOperands_one hlen, Access.andThen_ok]
    · rw [hdis, fetchOperands_raise_first hlen h1, Access.andThen_raise]
    · rw [hdis, fetchOperands_two hlen h1, Access.andThen_ok]
    · rw [hdis, fetchOperands_raise_second hlen h1 h2, Access.andThen_raise]
    · rw [hdis, fetchOperands_three hlen h1 h2, Access.andThen_ok]
  case fault =>
    rcases h with hr | hr | hr
    · exact fault_of_raise (busRead_after a s) hr
    · exact fault_of_raise (opcodeLengthAt_after a s) hr
    · exact fault_of_raise (disassemble_after a s) hr

end Sys2Proof.Machine
end

section
/-! PROOF. A step that records a fault: where the fault comes from, and that nothing but register reads came before it
(40_dispatch.md R102, R103, 60_exceptions.md R168, R169). -/
namespace Sys2Proof.Machine

/-- What makes a step at `s` record a fault of kind `k` (40_dispatch.md R103). -/
inductive StepFaultReason (s : State) : ErrorKind → Prop where
  | access {a : Word} {k : ErrorKind} (ha : accessFault a s = some k) : StepFaultReason s k
  | unsupported {op : Byte} (h : op ∈ undocumentedOpcodes ∨ op ∈ s.cfg.params.omitted) :
      StepFaultReason s (.unsupportedOpcode op s.pc)
  | decimal {op : Byte} {t : State} (hr : busRead s.pc s = .ok op t) (hop : op ∈ decimalOpcodes)
      (htrap : decimalTrap s = true) : StepFaultReason s (.decimalUnsupported s.pc)

/-- The ways a fetch ends: at the opcode byte, without a handler, at the decimal check, at an operand byte, or with an
instruction. -/
inductive FetchEnds (s : State) : Access Instr → Prop where
  | opcode {k : ErrorKind} (ha : accessFault s.pc s = some k) : FetchEnds s (.raise k s)
  | unhandled {op : Byte} {t : State} (ht : SameButReads s t) (h : op ∈ undocumentedOpcodes ∨ op ∈ s.cfg.params.omitted) :
      FetchEnds s (.ok (.unsupported op) t)
  | decimal {op : Byte} {t : State} (hr : busRead s.pc s = .ok op t) (hop : op ∈ decimalOpcodes)
      (htrap : decimalTrap s = true) : FetchEnds s (.raise (.decimalUnsupported s.pc) t)
  | operand {a : Word} {k : ErrorKind} {t : State} (ht : SameButReads s t) (ha : accessFault a s = some k) :
      FetchEnds s (.raise k t)
  | decoded {op b1 b2 : Byte} {t u : State} (hr : busRead s.pc s = .ok op t) (hu : SameButReads s u) :
      FetchEnds s (.ok (decodeOp op b1 b2) u)

/-- The operand fetches fail at an access, or give an instruction of the opcode. -/
theorem fetchOperands_cases (op : Byte) (pc : Word) (s : State) :
    (∃ a k t, SameButReads s t ∧ accessFault a s = some k ∧ fetchOperands op pc s = .raise k t) ∨
    (∃ b1 b2 t, SameButReads s t ∧ fetchOperands op pc s = .ok (decodeOp op b1 b2) t) := by
  rcases opcodeLength_cases op with hl | hl | hl
  · exact .inr ⟨0, 0, s, .refl s, fetchOperands_one hl⟩
  all_goals
    have hlen : 2 ≤ opcodeLength op := by omega
    cases h1 : busRead (pc + 1) s with
    | raise k t =>
      obtain ⟨rfl, ha⟩ := busRead_raise h1
      exact .inl ⟨_, k, t, .refl t, ha, fetchOperands_raise_first hlen h1⟩
    | ok b1 t => ?_
  · exact .inr ⟨b1, 0, t, busRead_sameButReads h1, fetchOperands_two hl h1⟩
  · have ht := busRead_sameButReads h1
    cases h2 : busRead (pc + 2) t with
    | raise k u =>
      obtain ⟨rfl, ha⟩ := busRead_raise h2
      rw [ht.accessFault] at ha
      exact .inl ⟨_, k, u, ht, ha, fetchOperands_raise_second hl h1 h2⟩
    | ok b2 u => exact .inr ⟨b1, b2, u, ht.trans (busRead_sameButReads h2), fetchOperands_three hl h1 h2⟩

theorem fetch_ends (s : State) : FetchEnds s (fetch s) := by
  cases hr : busRead s.pc s with
  | raise k t =>
    rw [fetch_raise_opcode hr]
    exact .opcode (busRead_raise hr).2
  | ok op t =>
    have ht := busRead_sameButReads hr
    by_cases hop : handled op s.cfg = true
    · by_cases hdec : op ∈ decimalOpcodes ∧ decimalTrap s = true
      · rw [fetch_decimal hr hop hdec.1 hdec.2]
        exact .decimal hr hdec.1 hdec.2
      · rw [fetch_operands hr hop hdec]
        rcases fetchOperands_cases op s.pc t with ⟨a, k, u, hu, ha, h⟩ | ⟨b1, b2, u, hu, h⟩ <;> rw [h]
        · rw [ht.accessFault] at ha
          exact .operand (ht.trans hu) ha
        · exact .decoded hr (ht.trans hu)
    · have hcfg : t.cfg = s.cfg := ht.sameClock.cfg
      rw [fetch_unhandled hr (by rw [hcfg]; exact Bool.eq_false_iff.mpr hop)]
      rw [handled_iff, ← not_or, not_not] at hop
      exact .unhandled ht hop

/-- A fault of an instruction that was fetched at `s` is a fault of the step at `s`. -/
theorem FaultReason.stepFaultReason {s t : State} {op b1 b2 : Byte} {k : ErrorKind} (ht : SameButReads s t)
    {u : State} (hr : busRead s.pc s = .ok op u) (h : FaultReason (decodeOp op b1 b2) t k) : StepFaultReason s k := by
  cases h with
  | unsupported op' hi =>
    obtain ⟨rfl, hun⟩ := decodeOp_eq_unsupported_iff.mp hi
    rw [ht.pc]
    exact .unsupported (.inl hun)
  | decimal o hi htrap =>
    rw [ht.decimalTrap] at htrap
    rw [ht.pc]
    exact .decimal hr (mem_decimalOpcodes hi (opcode_decodeOp op b1 b2)) htrap
  | access a k ha =>
    rw [ht.accessFault] at ha
    exact .access ha

/-- `t` is `s` after a fault: the record `r` has a reason and the address of PC, and only register reads came before it. -/
structure Faulted (s t : State) (r : FaultRecord) : Prop where
  pc : r.pc = s.pc
  reason : StepFaultReason s r.kind
  frame : ∃ u, SameButReads s u ∧ t = u.setFault (some r)

theorem SameButReads.faulted {s u : State} {k : ErrorKind} {r : FaultRecord} (hu : SameButReads s u)
    (hk : StepFaultReason s k) (hr : (faultedWith k u).fault = some r) : Faulted s (faultedWith k u) r := by
  cases hr
  exact ⟨hu.pc, hk, u, hu, rfl⟩

theorem exec_faulted {i : Instr} {s u t : State} {r : FaultRecord} (hf : s.fault = none) (hu : SameButReads s u)
    (hk : ∀ k, FaultReason i u k → StepFaultReason s k) (h : exec i u = .next t) (hr : t.fault = some r) : Faulted s t r := by
  cases exec_ends i u with
  | completes c w _ _ same eq =>
    cases eq.symm.trans h
    rw [elapse_fault, same.fault, hu.sameClock.fault, hf] at hr
    cases hr
  | faults k w same why eq =>
    have hw : SameButReads s w := hu.trans same
    have hpc : w.pc = u.pc := same.pc
    rw [← hpc] at eq
    cases eq.symm.trans h
    exact hw.faulted (hk k why) hr

theorem step_faulted {s t : State} {r : FaultRecord} (h : step s = .next t) (hr : t.fault = some r) : Faulted s t r := by
  unfold step at h
  split at h
  · cases h
  next hf =>
  split_ifs at h with hnmi
  · cases h
    rw [elapse_fault, (enterInterrupt_sameClock _ _ _ _).fault, State.setNmiPending_fault, hf] at hr
    cases hr
  · have he := fetch_ends s
    generalize fetch s = a at h he
    cases he with
    | opcode ha => cases h; exact (SameButReads.refl s).faulted (.access ha) hr
    | decimal hread hop htrap => cases h; exact (busRead_sameButReads hread).faulted (.decimal hread hop htrap) hr
    | operand ht ha => cases h; exact ht.faulted (.access ha) hr
    | unhandled ht hop =>
      cases h
      exact ht.faulted (ht.pc ▸ .unsupported hop) hr
    | decoded hread hu => exact exec_faulted hf hu (fun k hk => hk.stepFaultReason hu hread) h hr

/-- Settles O11, by the frame of a faulting step. -/
theorem faultingStepIsPrecise : Obligations.FaultingStepIsPrecise := by
  intro s t r h hr
  obtain ⟨hpc, _, u, hu, rfl⟩ := step_faulted h hr
  exact ⟨hpc, congrArg (State.setFault · (some r)) hu⟩

/-- The addresses at which an access faults, and the error of each (20_memory.md R50 to R53). -/
theorem accessFault_cases {a : Word} {s : State} {k : ErrorKind} (h : accessFault a s = some k) :
    (k = .addressOutOfBounds a ∧ 0x4000 ≤ a.toNat ∧ a.toNat < 0x6000) ∨
    (k = .addressOutOfBounds a ∧ 0x6000 ≤ a.toNat ∧ a.toNat < 0x8000 ∧ s.cfg.hasPrgRam = false) ∨
    (k = .ramDisabled a ∧ 0x6000 ≤ a.toNat ∧ a.toNat < 0x8000 ∧ s.cfg.hasPrgRam = true ∧ s.map.prg.getLsbD 4 = true) := by
  rcases Nat.lt_or_ge a.toNat 0x4000 with hlo | hlo
  · rw [accessFault] at h
    rcases Nat.lt_or_ge a.toNat 0x2000 with hram | hppu
    · rw [resolve_ram hram] at h; cases h
    · rw [resolve_ppu hppu hlo] at h; cases h
  rcases Nat.lt_or_ge a.toNat 0x6000 with hhi | hprg
  · rw [accessFault_unbacked s hlo hhi] at h
    cases h
    exact .inl ⟨rfl, hlo, hhi⟩
  rcases Nat.lt_or_ge a.toNat 0x8000 with hhi | hrom
  · rw [accessFault_prgRam s hprg hhi] at h
    cases hp : s.cfg.hasPrgRam with
    | false =>
      simp only [hp, Bool.not_false, if_true] at h
      cases h
      exact .inr (.inl ⟨rfl, hprg, hhi, rfl⟩)
    | true =>
      simp only [hp, Bool.not_true, Bool.false_eq_true, if_false] at h
      split at h
      · next hoff => cases h; exact .inr (.inr ⟨rfl, hprg, hhi, rfl, hoff⟩)
      · cases h
  · rw [accessFault, resolve_prgRom hrom] at h
    cases h

/-- Settles O12, by the reason of the fault a step records. -/
theorem stepFaultKinds : Obligations.StepFaultKinds := by
  intro s t r h hr
  have hreason := (step_faulted h hr).reason
  generalize r.kind = k at hreason
  cases hreason with
  | access ha =>
    rcases accessFault_cases ha with ⟨rfl, hrange⟩ | ⟨rfl, hrange⟩ | ⟨rfl, hrange⟩
    · exact .inl hrange
    · exact .inr hrange
    · exact hrange
  | unsupported hop => exact ⟨rfl, hop⟩
  | decimal hread hop htrap =>
    obtain ⟨hp, hd⟩ := decimalTrap_iff.mp htrap
    exact ⟨rfl, hp, hd, _, _, hread, hop⟩

end Sys2Proof.Machine
end

section
/-! PROOF. Catching up advances the picture unit by exactly its ticks, and takes nothing else with it (40_dispatch.md R97,
60_exceptions.md R179). -/
namespace Sys2Proof.Machine

section
variable (n : Nat) {s : State}

theorem catchUp_cyc (s : State) : (catchUp n s).cyc = s.cyc := drain_cyc _ _

theorem catchUp_pending (s : State) : (catchUp n s).ppu.pending = 0 :=
  (drain_pending _ _).trans (Nat.sub_self _)

theorem position_catchUp (h : s.ppu.scanline ≤ 261 ∧ s.ppu.cycle ≤ 340) :
    position (catchUp n s).ppu = position s.ppu + (s.ppu.pending + n) :=
  position_drain (s := s.setPpu { s.ppu with pending := s.ppu.pending + n }) h

theorem catchUp_dotInRange (h : s.ppu.scanline ≤ 261 ∧ s.ppu.cycle ≤ 340) :
    (catchUp n s).ppu.scanline ≤ 261 ∧ (catchUp n s).ppu.cycle ≤ 340 := drain_dotInRange h

end

/-- Settles O33: the position by the tick's, and the frame by that of time, in which CYC and the used-up budget stay as they are. -/
theorem catchUpAdvancesPosition : Obligations.CatchUpAdvancesPosition := by
  refine ⟨fun n s hscanline hcycle hpending => ?_, fun c s => ?_⟩
  · have hdot : s.ppu.scanline ≤ 261 ∧ s.ppu.cycle ≤ 340 := ⟨hscanline, hcycle⟩
    have hpos := position_catchUp n hdot
    rw [hpending, Nat.zero_add] at hpos
    obtain ⟨hscanline', hcycle'⟩ := catchUp_dotInRange n hdot
    refine ⟨hpos, hscanline', hcycle', ?_⟩
    have hframe := catchUp_sameButTime n s
    unfold SameButTime at hframe
    rw [catchUp_cyc, catchUp_pending, ← hpending] at hframe
    exact hframe
  · unfold elapse ticksPerCycle
    cases s.cfg.params.tickRatio <;> rfl

end Sys2Proof.Machine
end

section
/-! PROOF. The stack primitives are bus accesses of page 0x01, and a 16-bit pop takes back what a 16-bit push left (10_state.md R16,
40_dispatch.md R104). -/
namespace Sys2Proof.Machine

/-- The stack byte's address, as arithmetic on SP. -/
theorem ofNat_stackIndex (p : Byte) : BitVec.ofNat 16 (stackIndex p) = 0x0100 + zext16 p := by
  rw [← stackAddr_toNat, BitVec.ofNat_toNat, BitVec.setWidth_eq]

section
variable {s : State} (h : Inv s)
include h

theorem push_read_same (v : Byte) : (push v s).ram.read (stackIndex s.sp) = v :=
  Memory.read_write_same (fits_iff.mp h.ramFits).1 _ v

theorem push_read_other (v : Byte) {p : Byte} (hp : p ≠ s.sp) :
    (push v s).ram.read (stackIndex p) = s.ram.read (stackIndex p) :=
  Memory.read_write_other (fits_iff.mp h.ramFits).1 v fun e => hp (stackIndex_inj.mp e)

/-- The high byte of a pushed word lies at the old SP, and the low byte's push leaves it there. -/
theorem push16_read_high (w : Word) : (push16 w s).ram.read (stackIndex s.sp) = hiByte w := by
  have hne : s.sp ≠ s.sp - 1 := by bv_omega
  exact (push_read_other (h.push _) (loByte w) hne).trans (push_read_same h (hiByte w))

theorem push16_read_low (w : Word) : (push16 w s).ram.read (stackIndex (s.sp - 1)) = loByte w :=
  push_read_same (h.push (hiByte w)) (loByte w)

end

theorem push16_sp (w : Word) (s : State) : (push16 w s).sp = s.sp - 2 := by
  show s.sp - 1 - 1 = s.sp - 2
  bv_omega

theorem pop16_eq (s : State) :
    pop16 s = (mkWord (s.ram.read (stackIndex (s.sp + 2))) (s.ram.read (stackIndex (s.sp + 1))), s.setSp (s.sp + 2)) := by
  have hsp : s.sp + 1 + 1 = s.sp + 2 := by bv_omega
  rw [← hsp]
  rfl

/-- The pop reads the two cells that the push wrote, and SP is back where it was. -/
theorem pop16_push16 {s : State} (h : Inv s) (w : Word) : pop16 (push16 w s) = (w, (push16 w s).setSp s.sp) := by
  have hlow : (push16 w s).sp + 1 = s.sp - 1 := by rw [push16_sp]; bv_omega
  have hhigh : (push16 w s).sp + 2 = s.sp := by rw [push16_sp]; bv_omega
  rw [pop16_eq, hlow, hhigh, push16_read_low h, push16_read_high h, mkWord_hi_lo]

/-- Settles O41: each primitive is the bus access of the stack page, and the pop takes back the push. -/
theorem stackRoundTrip : Obligations.StackRoundTrip := by
  refine ⟨fun s v => ⟨?push, rfl, rfl, ?pop, rfl⟩, fun s w h => ⟨rfl, ?value, ?sp, push16_read_high h w, push16_read_low h w⟩⟩
  case push => exact (congrArg (busWrite · v s) (ofNat_stackIndex s.sp)).trans (busWrite_stack s.sp v s)
  case pop => exact (congrArg (busRead · s) (ofNat_stackIndex (s.sp + 1))).trans (busRead_stack (s.sp + 1) s)
  case value => rw [pop16_push16 h]
  case sp => rw [pop16_push16 h, State.setSp_sp]

end Sys2Proof.Machine
end

section
/-! PROOF. The eight conditional branches (45_control.md R149 to R157, 40_dispatch.md R107). -/
namespace Sys2Proof.Machine

/-- The target is `pc + 2` plus the signed offset, mod 65536 (Table R91). -/
theorem branchTarget_toNat (off : Byte) (s : State) :
    ((branchTarget off s).toNat : Int) = ((s.pc.toNat : Int) + 2 + off.toInt) % 65536 := by
  have hsext : ((sext16 off).toNat : Int) = off.toInt % 65536 := by
    have hint : (sext16 off).toInt = off.toInt := BitVec.toInt_signExtend_of_le (by decide)
    have hlt := (sext16 off).isLt
    rw [BitVec.toInt_eq_toNat_cond] at hint
    split at hint <;> omega
  have htwo : (2 : Word).toNat = 2 := rfl
  rw [branchTarget, BitVec.toNat_add, BitVec.toNat_add, htwo]
  omega

/-- The mask keeps the high byte. -/
theorem and_highMask (w : Word) : w &&& 0xFF00 = mkWord (hiByte w) 0 := by
  apply BitVec.eq_of_getLsbD_eq
  intro i hi
  simp only [mkWord, hiByte, BitVec.getLsbD_append, BitVec.getLsbD_extractLsb', BitVec.getLsbD_and]
  interval_cases i <;> simp

/-- The high bytes differ exactly when the words differ under the mask of the rule (40_dispatch.md R106). -/
theorem pagesDiffer_iff_mask {p q : Word} : pagesDiffer p q = true ↔ p &&& 0xFF00 ≠ q &&& 0xFF00 := by
  rw [pagesDiffer, bne_iff_ne, and_highMask, and_highMask]
  refine not_congr ⟨fun h => by rw [h], fun h => ?_⟩
  have hhi := congrArg hiByte h
  rwa [hiByte_mkWord, hiByte_mkWord] at hhi

/-- The page test of the configured rule, as the cycle it adds (40_dispatch.md R107). -/
theorem branchCrosses_toNat (rule : BranchPageRule) (p q : Word) :
    (branchCrosses rule p q).toNat = match rule with
      | .highByte => if p &&& 0xFF00 ≠ q &&& 0xFF00 then 1 else 0
      | .sourceMaskF0 => if p &&& 0x00F0 ≠ q &&& 0x00F0 then 1 else 0 := by
  have toNat_eq {b : Bool} {c : Prop} [Decidable c] (h : b = true ↔ c) : b.toNat = if c then 1 else 0 := by
    cases b <;> simp_all
  cases rule with
  | highByte => exact toNat_eq pagesDiffer_iff_mask
  | sourceMaskF0 => exact toNat_eq bne_iff_ne

/-- A branch goes to the target, with the page test's cycle, when its flag says so, and else to `pc + 2` (45_control.md R149). -/
theorem branchInstr_eq (cond : Bool) (off : Byte) (s : State) :
    branchInstr cond off s = if cond then
        .next (elapse (2 + 1 + (branchCrosses s.cfg.params.branchPageRule (s.pc + 2) (branchTarget off s)).toNat)
          { s with pc := branchTarget off s })
      else .next (elapse 2 { s with pc := s.pc + 2 }) := rfl

/-- Settles O52: each branch is `branchInstr` on its flag. -/
theorem branchesComplete : Obligations.BranchesComplete := by
  intro s off
  refine ⟨branchTarget off s, branchTarget_toNat off s, ?_⟩
  intro from2 bp branch
  have hbp : (branchCrosses s.cfg.params.branchPageRule from2 (branchTarget off s)).toNat = bp := branchCrosses_toNat _ _ _
  have hbranch (op : Byte) (i : Instr) (cond : Bool) (henc : encode i = [op, off]) (hi : exec i s = branchInstr cond off s) :
      branch op i cond := by
    rw [branchInstr_eq, hbp] at hi
    refine ⟨henc, fun hc => ?_, fun hc => ?_⟩ <;> rw [hi, hc] <;> rfl
  exact ⟨hbranch _ _ _ rfl rfl, hbranch _ _ _ rfl rfl, hbranch _ _ _ rfl rfl, hbranch _ _ _ rfl rfl,
    hbranch _ _ _ rfl rfl, hbranch _ _ _ rfl rfl, hbranch _ _ _ rfl rfl, hbranch _ _ _ rfl rfl⟩

end Sys2Proof.Machine
end

section
/-! PROOF. The frame of memory (20_memory.md R47, 40_dispatch.md R101): register reads, faults and time change no cell, a push changes
one stack cell, and a bus write the one cell it stores in. -/
namespace Sys2Proof.Machine

/-- From `s` to `t` no cell outside the list has changed. -/
def ChangedIn (cs : List Cell) (s t : State) : Prop := ∀ c, c ∉ cs → cellRead c t = cellRead c s

section
variable {s t u : State} {cs ds : List Cell}

theorem SameCells.changedIn (h : SameCells s t) : ChangedIn cs s t := fun c _ => h c

theorem ChangedIn.trans (h : ChangedIn cs s t) (h' : ChangedIn ds t u) : ChangedIn (cs ++ ds) s u := by
  intro c hc
  rw [List.mem_append, not_or] at hc
  exact (h' c hc.2).trans (h c hc.1)

theorem ChangedIn.trans_same (h : ChangedIn cs s t) (h' : SameCells t u) : ChangedIn cs s u :=
  fun c hc => (h' c).trans (h c hc)

theorem SameCells.refl (s : State) : SameCells s s := fun _ => rfl

theorem SameCells.trans (h : SameCells s t) (h' : SameCells t u) : SameCells s u := fun c => (h' c).trans (h c)

/-- The cells are in the memories alone. -/
theorem sameCells_of_memories (hram : t.ram = s.ram) (hprg : t.prgRam = s.prgRam) (hchr : t.chrRam = s.chrRam)
    (hoam : t.ppu.oam = s.ppu.oam) (hciram : t.ppu.ciram = s.ppu.ciram) (hpal : t.ppu.pal = s.ppu.pal) : SameCells s t := by
  intro c
  cases c <;> simp only [cellRead, hram, hprg, hchr, hoam, hciram, hpal]

theorem SameButReads.sameCells (h : SameButReads s t) : SameCells s t := by
  apply sameCells_of_memories <;> rw [h]

theorem sameCells_elapse (c : Nat) (s : State) : SameCells s (elapse c s) := by
  apply sameCells_of_memories <;> simp

/-! The shared operations -/

theorem ChangedIn.complete (pc : Word) (c : Nat) (h : ChangedIn cs s t) : KeptBy (ChangedIn cs s) (complete pc c t) := by
  rintro u ⟨⟩
  exact (h.trans_same (u := t.setPc pc) (sameCells_of_memories rfl rfl rfl rfl rfl rfl)).trans_same (sameCells_elapse c _)

theorem SameCells.complete (pc : Word) (c : Nat) (h : SameCells s t) : KeptBy (ChangedIn cs s) (complete pc c t) :=
  h.changedIn.complete pc c

theorem SameCells.takeFault (k : ErrorKind) (h : SameCells s t) : KeptBy (ChangedIn cs s) (takeFault k t) := by
  rintro u ⟨⟩
  exact h.changedIn.trans_same (sameCells_of_memories rfl rfl rfl rfl rfl rfl)

/-- A push stores in the stack cell that SP addresses. -/
theorem changedIn_push (h : Inv s) (v : Byte) : ChangedIn [.ram (stackIndex s.sp)] s (push v s) := by
  intro c hc
  have hne : Cell.ram (stackIndex s.sp) ≠ c := fun e => hc (List.mem_singleton.mpr e.symm)
  have hwrite := cellRead_writeCell_other h v hne
  rw [← hwrite]
  exact sameCells_of_memories rfl rfl rfl rfl rfl rfl c

theorem changedIn_push16 (h : Inv s) (w : Word) :
    ChangedIn [.ram (stackIndex s.sp), .ram (stackIndex (s.sp - 1))] s (push16 w s) :=
  (changedIn_push h _).trans (changedIn_push (h.push _) _)

/-- Taking an interrupt pushes three bytes. -/
theorem changedIn_enterInterrupt (h : Inv s) (ret : Word) (b : Bool) (vector : Word) :
    ChangedIn [.ram (stackIndex s.sp), .ram (stackIndex (s.sp - 1)), .ram (stackIndex (s.sp - 2))] s
      (enterInterrupt ret b vector s) := by
  have hpush := (changedIn_push16 h ret).trans (changedIn_push (s := push16 ret s) ((h.push _).push _) (s.flags.pack b))
  rw [push16_sp] at hpush
  exact hpush.trans_same (sameCells_of_memories rfl rfl rfl rfl rfl rfl)

theorem sameCells_leaveInterrupt (s : State) : SameCells s (leaveInterrupt s) := by
  apply sameCells_of_memories <;> simp [leaveInterrupt, pop16]

/-- A bus write changes at most the cell it stores in. -/
theorem changedIn_busWrite {a : Word} {v : Byte} (h : Inv s) (hw : busWrite a v s = .ok () t) :
    ChangedIn (storedCell a s).toList s t := by
  intro c hc
  rw [Option.mem_toList] at hc
  exact (busWriteStoresInOneCell a v s t h hw).2 c hc

/-! The instruction forms -/

theorem changedIn_readInstr {o : Src} {f : Byte → State → State} (hf : ∀ v u, SameCells u (f v u)) :
    KeptBy (ChangedIn cs s) (readInstr o f s) := by
  rcases readInstr_cases o f s with ⟨v, u, _, hu, h⟩ | ⟨l, k, _, _, h⟩ <;> rw [h]
  · exact (hu.sameCells.trans (hf v u)).complete _ _
  · exact (SameCells.refl s).takeFault k

/-- ADC and SBC: the decimal trap, then a reading instruction. -/
theorem changedIn_decimalInstr {o : Src} {f : Byte → State → State} (hf : ∀ v u, SameCells u (f v u)) :
    KeptBy (ChangedIn cs s)
      (if decimalTrap s then takeFault (.decimalUnsupported s.pc) s else readInstr o f s) := by
  split
  · exact (SameCells.refl s).takeFault _
  · exact changedIn_readInstr hf

theorem changedIn_branchInstr {cond : Bool} {off : Byte} : KeptBy (ChangedIn cs s) (branchInstr cond off s) := by
  rcases branchInstr_cases cond off s with ⟨_, h⟩ | ⟨_, h⟩ <;> rw [h] <;> exact (SameCells.refl s).complete _ _

theorem changedIn_readIndirect {q : Word} :
    KeptBy (ChangedIn cs s) ((readIndirect q s).run fun w t => complete w 5 t) := by
  rcases readIndirect_cases q s with ⟨w, u, h, hu⟩ | ⟨k, u, h, hu⟩ <;> rw [h]
  · exact hu.sameCells.complete w 5
  · exact hu.sameCells.takeFault k

theorem changedIn_storeInstr (h : Inv s) (l : Loc) (v : Byte) :
    KeptBy (ChangedIn (storedCell (ea l s) s).toList s) (storeInstr l v s) := by
  rcases storeInstr_cases l v s with ⟨t, hw, _, he⟩ | ⟨k, _, he⟩ <;> rw [he]
  · exact (changedIn_busWrite h hw).complete _ _
  · exact (SameCells.refl s).takeFault k

/-- The write of a read-modify-write stores in the cell that its address has after the read. -/
theorem changedIn_rmwInstr {i : Instr} (h : Inv s) {l : RmwLoc} {r : Byte → Byte} {g : Flags → Byte → Flags}
    (hread : dataReadAddr i s = some (ea l.loc s)) (hwrite : dataWriteAddr i s = some (ea l.loc s)) :
    KeptBy (ChangedIn (dataCell i s).toList s) (rmwInstr l r g s) := by
  rcases rmwInstr_cases l r g s with ⟨v, t, u, hb, ht, hw, _, he⟩ | ⟨k, _, he⟩ <;> rw [he]
  · have hcell : dataCell i s = storedCell (ea l.loc s) t := by
      simp only [dataCell, hwrite, beforeDataWrite, hread, hb]
    rw [hcell]
    have hstore := changedIn_busWrite (h.sameButReads ht) hw
    have hchanged : ChangedIn (storedCell (ea l.loc s) t).toList s u := fun c hc => (hstore c hc).trans (ht.sameCells c)
    exact (hchanged.trans_same (u := u.setFlags (g u.flags v)) (sameCells_of_memories rfl rfl rfl rfl rfl rfl)).complete _ _
  · exact (SameCells.refl s).takeFault k

end

/-- The cells that an instruction may change: those it pushes to, then that of its data write. -/
theorem exec_changedIn (i : Instr) {s : State} (h : Inv s) :
    KeptBy (ChangedIn (pushedCells i s ++ (dataCell i s).toList) s) (exec i s) := by
  cases i with
  | lda o | ldx o | ldy o | and o | ora o | eor o | cmp o | cpx o | cpy o =>
    exact changedIn_readInstr fun _ _ => sameCells_of_memories rfl rfl rfl rfl rfl rfl
  | bit l => exact changedIn_readInstr (o := .mem l) fun _ _ => sameCells_of_memories rfl rfl rfl rfl rfl rfl
  | adc o | sbc o => exact changedIn_decimalInstr fun _ _ => sameCells_of_memories rfl rfl rfl rfl rfl rfl
  | sta l | stx l | sty l => exact changedIn_storeInstr h l _
  | inc l => exact changedIn_rmwInstr (i := .inc l) h (l := l) (r := fun m => m + 1) (g := fun f m => f.setZN (m + 1)) rfl rfl
  | dec l => exact changedIn_rmwInstr (i := .dec l) h (l := l) (r := fun m => m - 1) (g := fun f m => f.setZN (m - 1)) rfl rfl
  | asl o | lsr o | rol o | ror o =>
    cases o with
    | acc => exact SameCells.complete _ _ (sameCells_of_memories rfl rfl rfl rfl rfl rfl)
    | mem l => exact changedIn_rmwInstr h rfl rfl
  | bpl off | bmi off | bvc off | bvs off | bcc off | bcs off | bne off | beq off => exact changedIn_branchInstr
  | jmp t =>
    cases t with
    | abs a => exact (SameCells.refl s).complete a 3
    | ind q => exact changedIn_readIndirect
  | tax | tay | txa | tya | tsx | txs | inx | iny | dex | dey | clc | sec | cli | sei | clv | cld | sed | nop | pla | plp | rts =>
    exact SameCells.complete _ _ (sameCells_of_memories rfl rfl rfl rfl rfl rfl)
  | pha | php => exact (changedIn_push h _).complete _ _
  | jsr a => exact (changedIn_push16 h _).complete _ _
  | brk =>
    rintro t ⟨⟩
    exact (changedIn_enterInterrupt h _ _ _).trans_same (sameCells_elapse 7 _)
  | rti =>
    rintro t ⟨⟩
    exact (sameCells_leaveInterrupt s).changedIn.trans_same (sameCells_elapse 6 _)
  | unsupported op => exact (SameCells.refl s).takeFault _

/-- Settles O57, by the cells that each instruction may change. -/
theorem memoryFrame : Obligations.MemoryFrame := by
  intro i s t c h he hpush hdata
  refine exec_changedIn i h t he c fun hc => ?_
  rcases List.mem_append.mp hc with hc | hc
  · exact hpush hc
  · exact hdata (Option.mem_toList.mp hc)

end Sys2Proof.Machine
end

section
/-! PROOF. Loads, stores and register transfers (41_load_store.md R111 to R122): how an instruction that reads an operand and one that
stores a register end, once for all of them, and then each instruction as its form. -/
namespace Sys2Proof.Machine

/-! The instruction forms -/

/-- Once its operand is read, a reading instruction completes (40_dispatch.md R99, R101). -/
theorem readInstr_of_load {o : Src} {v : Byte} {s t : State} (h : load o s = .ok v t) (f : Byte → State → State) :
    readInstr o f s = .next (elapse (readCycles o s) { f v t with pc := s.pc + BitVec.ofNat 16 o.mode.length }) := by
  rw [readInstr, h]
  rfl

/-- An operand that cannot be read ends the instruction with the access's fault (40_dispatch.md R102). -/
theorem readInstr_of_fault {l : Loc} {s : State} {k : ErrorKind} (h : accessFault (ea l s) s = some k)
    (f : Byte → State → State) : readInstr (.mem l) f s = .next (faultedWith k s) := by
  rw [readInstr, load, (access_of_fault 0 h).1]
  rfl

/-- Once its write is made, a storing instruction completes (40_dispatch.md R99, R101). -/
theorem storeInstr_of_write {l : Loc} {v : Byte} {s t : State} (h : busWrite (ea l s) v s = .ok () t) :
    storeInstr l v s = .next (elapse (Loc.storeCycles l) { t with pc := s.pc + BitVec.ofNat 16 l.mode.length }) := by
  rw [storeInstr, h]
  rfl

/-- An address that cannot be written ends the instruction with the access's fault (40_dispatch.md R102). -/
theorem storeInstr_of_fault {l : Loc} {s : State} {k : ErrorKind} (h : accessFault (ea l s) s = some k) (v : Byte) :
    storeInstr l v s = .next (faultedWith k s) := by
  rw [storeInstr, (access_of_fault v h).2]
  rfl

/-- An instruction with the meaning `readInstr` reads its operand and has its effect. -/
theorem reads_of_readInstr {i : Src → Instr} {f : Byte → State → State} {s : State}
    (hi : ∀ o, exec (i o) s = readInstr o f s) : Reads i f s := by
  refine ⟨fun v => ?immediate, fun l h => ?readable, fun l k h => ?faulting⟩
  case immediate => exact (hi _).trans (readInstr_of_load rfl f)
  case readable =>
    obtain ⟨v, t, hr⟩ := busRead_ok_iff.mpr h
    exact ⟨v, t, hr, (hi _).trans (readInstr_of_load (o := .mem l) hr f)⟩
  case faulting => exact (hi _).trans (readInstr_of_fault h f)

/-- An instruction with the meaning `storeInstr` of `v` stores `v`. -/
theorem stores_of_storeInstr {i : Loc → Instr} {v : Byte} {s : State} (hi : ∀ l, exec (i l) s = storeInstr l v s) :
    Stores i v s := by
  refine ⟨fun l h => ?writable, fun l k h => ?faulting⟩
  case writable =>
    obtain ⟨t, hw⟩ := busWrite_ok_iff.mpr h
    exact ⟨t, hw, (hi l).trans (storeInstr_of_write hw)⟩
  case faulting => exact (hi l).trans (storeInstr_of_fault h v)

/-! The instructions -/

/-- Settles O37: each load is `readInstr` with its register's effect. -/
theorem loadsComplete : Obligations.LoadsComplete := by
  intro s
  simp only [← setZN_eq]
  exact ⟨reads_of_readInstr fun _ => rfl, reads_of_readInstr fun _ => rfl, reads_of_readInstr fun _ => rfl⟩

/-- Settles O38: each store is `storeInstr` of its register. -/
theorem storesComplete : Obligations.StoresComplete := fun _ =>
  ⟨stores_of_storeInstr fun _ => rfl, stores_of_storeInstr fun _ => rfl, stores_of_storeInstr fun _ => rfl⟩

/-- Settles O39: each transfer is one `complete` of two cycles, with the flags of `setZN`. -/
theorem transfersComplete : Obligations.TransfersComplete := by
  intro s
  simp only [← setZN_eq]
  exact ⟨⟨rfl, rfl⟩, ⟨rfl, rfl⟩, ⟨rfl, rfl⟩, ⟨rfl, rfl⟩, ⟨rfl, rfl⟩, ⟨rfl, rfl⟩⟩

end Sys2Proof.Machine
end

section
/-! PROOF. Stack instructions (42_stack.md R123 to R126): each is one stack primitive of 40_dispatch.md R104, then `complete` at the next
instruction. -/
namespace Sys2Proof.Machine

/-- An instruction that completes after a push has stored the byte at `0x0100 + SP` and decremented SP. -/
theorem complete_push (v : Byte) (pc : Word) (c : Nat) (s : State) :
    complete pc c (push v s) =
      .next (elapse c { s with ram := s.ram.write (0x100 + s.sp.toNat) v, sp := s.sp - 1, pc := pc }) := rfl

theorem exec_pha (s : State) : exec .pha s = complete (s.pc + 1) 3 (push s.a s) := rfl

/-- The pushed B is 1 whatever the stored B is (42_stack.md R124). -/
theorem exec_php (s : State) : exec .php s = complete (s.pc + 1) 3 (push (statusByte s.flags true) s) := by
  rw [← pack_eq]
  rfl

theorem exec_pla (s : State) :
    exec .pla s = complete (s.pc + 1) 4 (((pop s).2.setA (pop s).1).setFlags (withZN s.flags (pop s).1)) := by
  rw [← setZN_eq]
  rfl

theorem exec_plp (s : State) : exec .plp s = complete (s.pc + 1) 4 ((pop s).2.setFlags (Flags.unpack (pop s).1)) := rfl

/-- Settles O40: each instruction is its push or its pop, and one `complete`. -/
theorem stackInstructionsComplete : Obligations.StackInstructionsComplete := by
  intro s
  refine ⟨⟨rfl, ?pha⟩, ⟨rfl, ?php⟩, ⟨rfl, ?pla⟩, ⟨rfl, ?plp⟩⟩
  case pha => exact (exec_pha s).trans (complete_push s.a (s.pc + 1) 3 s)
  case php => exact (exec_php s).trans (complete_push (statusByte s.flags true) (s.pc + 1) 3 s)
  case pla => exact exec_pla s
  case plp => exact exec_plp s

end Sys2Proof.Machine
end

section
/-! PROOF. The result bytes and the flags of 43_arith_logic.md and 44_shift.md, each as its rule's arithmetic. -/
namespace Sys2Proof.Machine

/-! Result bytes -/

theorem add_one_eq (v : Byte) : v + 1 = BitVec.ofNat 8 (v.toNat + 1) := by
  bv_omega

theorem sub_one_eq (v : Byte) : v - 1 = BitVec.ofNat 8 (v.toNat + 255) := by
  bv_omega

theorem shiftLeft_one_toNat (v : Byte) : (v <<< 1).toNat = 2 * (v.toNat % 128) := by
  rw [BitVec.toNat_shiftLeft, Nat.shiftLeft_eq]
  omega

theorem shiftRight_one_toNat (v : Byte) : (v >>> 1).toNat = v.toNat / 2 := by
  rw [BitVec.toNat_ushiftRight, Nat.shiftRight_eq_div_pow]

theorem aslResult_eq (v : Byte) : aslResult v = BitVec.ofNat 8 (2 * v.toNat) := by
  apply BitVec.eq_of_toNat_eq
  rw [aslResult, shiftLeft_one_toNat, BitVec.toNat_ofNat]
  omega

theorem lsrResult_eq (v : Byte) : lsrResult v = BitVec.ofNat 8 (v.toNat / 2) := by
  have hv := v.isLt
  apply BitVec.eq_of_toNat_eq
  rw [lsrResult, shiftRight_one_toNat, BitVec.toNat_ofNat]
  omega

/-- The shifted byte has bit 0 clear, so that the carry is added there. -/
theorem rolResult_eq (c : Bool) (v : Byte) : rolResult c v = BitVec.ofNat 8 (2 * v.toNat + c.toNat) := by
  have hc := c.toNat_lt
  have hbit : ((BitVec.ofBool c).setWidth 8).toNat = c.toNat := by cases c <;> rfl
  have hor : 2 * (v.toNat % 128) ||| c.toNat = 2 * (v.toNat % 128) + c.toNat :=
    (Nat.two_pow_add_eq_or_of_lt (i := 1) hc _).symm
  apply BitVec.eq_of_toNat_eq
  rw [rolResult, BitVec.toNat_or, shiftLeft_one_toNat, hbit, hor, BitVec.toNat_ofNat]
  omega

/-- The shifted byte has bit 7 clear, so that the carry is added there. -/
theorem rorResult_eq (c : Bool) (v : Byte) : rorResult c v = BitVec.ofNat 8 (v.toNat / 2 + 128 * c.toNat) := by
  have hv := v.isLt
  have hc := c.toNat_lt
  have hbit : ((BitVec.ofBool c).setWidth 8 <<< 7).toNat = 128 * c.toNat := by cases c <;> rfl
  have hor : 128 * c.toNat ||| v.toNat / 2 = 128 * c.toNat + v.toNat / 2 :=
    (Nat.two_pow_add_eq_or_of_lt (i := 7) (by omega) _).symm
  apply BitVec.eq_of_toNat_eq
  rw [rorResult, BitVec.or_comm, BitVec.toNat_or, shiftRight_one_toNat, hbit, hor, BitVec.toNat_ofNat]
  omega

/-- `m ^ 0xFF`, the operand that SBC adds (43_arith_logic.md R128). -/
theorem xor_FF_eq_not (m : Byte) : m ^^^ 0xFF = ~~~m :=
  (BitVec.xor_comm ..).trans (BitVec.not_def ..).symm

theorem not_toNat (m : Byte) : (~~~m).toNat = 255 - m.toNat := BitVec.toNat_not

theorem sbcSum_eq_adcSum_not (a m : Byte) (c : Bool) : sbcSum a m c = adcSum a (~~~m) c := by
  rw [sbcSum, xor_FF_eq_not, adcSum]

theorem sbcResult_eq_adcResult_not (a m : Byte) (c : Bool) : sbcResult a m c = adcResult a (~~~m) c := by
  rw [sbcResult, sbcSum_eq_adcSum_not, adcResult]

theorem sbcSum_eq (a m : Byte) (c : Bool) : sbcSum a m c = a.toNat + (255 - m.toNat) + c.toNat := by
  rw [sbcSum_eq_adcSum_not, adcSum, not_toNat]

/-! Flags -/

theorem Flags.asl_eq (f : Flags) (m : Byte) :
    f.asl m = { withZN f (BitVec.ofNat 8 (2 * m.toNat)) with c := decide (128 ≤ m.toNat) } := by
  rw [Flags.asl, setZN_eq, getLsbD_seven, aslResult_eq]
  rfl

theorem Flags.lsr_eq (f : Flags) (m : Byte) :
    f.lsr m = { withZN f (BitVec.ofNat 8 (m.toNat / 2)) with c := decide (m.toNat % 2 = 1), n := false } := by
  have hz (v : Byte) : (v == 0) = (withZN f v).z := by rw [← setZN_eq]; rfl
  rw [Flags.lsr, hz, getLsbD_zero, lsrResult_eq]
  rfl

theorem Flags.rol_eq (f : Flags) (m : Byte) :
    f.rol m = { withZN f (BitVec.ofNat 8 (2 * m.toNat + f.c.toNat)) with c := decide (128 ≤ m.toNat) } := by
  rw [Flags.rol, setZN_eq, getLsbD_seven, rolResult_eq]
  rfl

theorem Flags.ror_eq (f : Flags) (m : Byte) :
    f.ror m = { withZN f (BitVec.ofNat 8 (m.toNat / 2 + 128 * f.c.toNat)) with c := decide (m.toNat % 2 = 1) } := by
  rw [Flags.ror, setZN_eq, getLsbD_zero, rorResult_eq]
  rfl

theorem Flags.compare_eq (f : Flags) (r m : Byte) :
    f.compare r m = { f with
      z := decide (r.toNat = m.toNat)
      c := decide (m.toNat ≤ r.toNat)
      n := decide (128 ≤ (r.toNat + 256 - m.toNat) % 256) } := by
  have hz : (r == m) = decide (r.toNat = m.toNat) := by simp only [beq_eq_decide, BitVec.toNat_inj]
  have hsub : (r - m).toNat = (r.toNat + 256 - m.toNat) % 256 := by bv_omega
  rw [Flags.compare, hz, getLsbD_seven, hsub]

theorem Flags.bitTest_eq (f : Flags) (a m : Byte) :
    f.bitTest a m = { f with z := decide (a &&& m = 0), n := m.getLsbD 7, v := m.getLsbD 6 } := by
  rw [Flags.bitTest, beq_eq_decide]

theorem Flags.adc_eq (f : Flags) (a m : Byte) :
    f.adc a m = { withZN f (adcResult a m f.c) with
      c := decide (0xFF < adcSum a m f.c)
      v := decide (((a ^^^ adcResult a m f.c) &&& (m ^^^ adcResult a m f.c) &&& 0x80) ≠ 0) } := by
  rw [Flags.adc, setZN_eq, bne, beq_eq_decide, ← decide_not]
  rfl

theorem Flags.sbc_eq (f : Flags) (a m : Byte) :
    f.sbc a m = { withZN f (sbcResult a m f.c) with
      c := decide (0xFF < sbcSum a m f.c)
      v := decide (((a ^^^ m) &&& (a ^^^ sbcResult a m f.c) &&& 0x80) ≠ 0) } := by
  rw [Flags.sbc, setZN_eq, bne, beq_eq_decide, ← decide_not]
  rfl

end Sys2Proof.Machine
end

section
/-! PROOF. Arithmetic, logic, compares and shifts (43_arith_logic.md R127 to R141, 44_shift.md R142 to R145): each instruction as
its form, with the flags and the result of its rule. -/
namespace Sys2Proof.Machine

/-! The instruction forms -/

/-- An instruction that reads its operand with the effect `f` has every effect equal to it. -/
theorem reads_of_effect {i : Src → Instr} {f f' : Byte → State → State} {s : State}
    (hi : ∀ o, exec (i o) s = readInstr o f s) (hf : ∀ m t, f m t = f' m t) : Reads i f' s := by
  obtain rfl : f = f' := funext₂ hf
  exact reads_of_readInstr hi

/-- Once its read and its write are made, a read-modify-write completes (40_dispatch.md R99, R101). -/
theorem rmwInstr_of_access {l : RmwLoc} {r : Byte → Byte} {g : Flags → Byte → Flags} {m : Byte} {s t u : State}
    (hread : busRead (ea l.loc s) s = .ok m t) (hwrite : busWrite (ea l.loc s) (r m) t = .ok () u) :
    rmwInstr l r g s =
      .next (elapse (RmwLoc.rmwCycles l) { u with flags := g u.flags m, pc := s.pc + BitVec.ofNat 16 l.loc.mode.length }) := by
  simp only [rmwInstr, hread, Access.run_ok, hwrite]
  rfl

/-- An address that cannot be read ends the instruction with the access's fault (40_dispatch.md R102). -/
theorem rmwInstr_of_fault {l : RmwLoc} {s : State} {k : ErrorKind} (h : accessFault (ea l.loc s) s = some k)
    (r : Byte → Byte) (g : Flags → Byte → Flags) : rmwInstr l r g s = .next (faultedWith k s) := by
  rw [rmwInstr, (access_of_fault 0 h).1]
  rfl

/-- Neither access of a read-modify-write changes a flag. -/
theorem modifies_of_rmwInstr {i : RmwLoc → Instr} {r r' : Byte → Byte} {g g' : Flags → Byte → Flags} {s : State}
    (hi : ∀ l, exec (i l) s = rmwInstr l r g s) (hr : ∀ m, r m = r' m) (hg : ∀ m, g s.flags m = g' s.flags m) :
    Modifies i r' g' s := by
  obtain rfl : r = r' := funext hr
  refine ⟨fun l h => ?accessible, fun l k h => ?faulting⟩
  case accessible =>
    obtain ⟨m, t, hread⟩ := busRead_ok_iff.mpr h
    have ht := busRead_sameButReads hread
    obtain ⟨u, hwrite⟩ := busWrite_ok_iff (v := r m).mpr ((ht.accessFault _).trans h)
    have hflags := (busWrite_sameButWrites hwrite).sameRegisters.flags.trans ht.sameRegisters.flags
    exact ⟨m, t, u, hread, hwrite, by rw [hi, rmwInstr_of_access hread hwrite, hflags, hg]⟩
  case faulting => exact (hi l).trans (rmwInstr_of_fault h r g)

/-- A shift acts on A as on a byte of memory (44_shift.md R142 to R145). -/
theorem shifts_of_shiftInstr {i : ShiftDst → Instr} {r r' : Byte → Byte} {g g' : Flags → Byte → Flags} {s : State}
    (hi : ∀ o, exec (i o) s = shiftInstr o r g s) (hr : ∀ m, r m = r' m) (hg : ∀ m, g s.flags m = g' s.flags m) :
    Modifies (fun l => i (.mem l)) r' g' s ∧
      exec (i .acc) s = .next (elapse 2 { s with a := r' s.a, flags := g' s.flags s.a, pc := s.pc + 1 }) := by
  refine ⟨modifies_of_rmwInstr (fun l => hi (.mem l)) hr hg, ?_⟩
  rw [hi, ← hr, ← hg]
  rfl

/-- ADC adds its operand unless the decimal check refuses (43_arith_logic.md R127). -/
theorem exec_adc {s : State} (h : ¬ decimalTrap s = true) (o : Src) :
    exec (.adc o) s = readInstr o (fun m t => (t.setA (adcResult t.a m t.flags.c)).setFlags (t.flags.adc t.a m)) s := if_neg h

/-- SBC subtracts its operand unless the decimal check refuses (43_arith_logic.md R128). -/
theorem exec_sbc {s : State} (h : ¬ decimalTrap s = true) (o : Src) :
    exec (.sbc o) s = readInstr o (fun m t => (t.setA (sbcResult t.a m t.flags.c)).setFlags (t.flags.sbc t.a m)) s := if_neg h

/-! The instructions -/

/-- Settles O42: each is `readInstr` with the sum's result and flags, after the decimal check. -/
theorem addAndSubtractComplete : Obligations.AddAndSubtractComplete := by
  refine fun s => ⟨fun h => ?binary, fun hp hd o => ?decimal⟩
  case binary =>
    rw [← decimalTrap_iff] at h
    refine ⟨reads_of_effect (exec_adc h) fun m t => ?_, reads_of_effect (exec_sbc h) fun m t => ?_⟩
    · rw [Flags.adc_eq]
      rfl
    · rw [Flags.sbc_eq, sbcResult, sbcSum_eq]
      rfl
  case decimal =>
    have htrap : decimalTrap s = true := decimalTrap_iff.mpr ⟨hp, hd⟩
    exact ⟨if_pos htrap, if_pos htrap⟩

/-- Settles O44: each is `readInstr` with its operation. -/
theorem logicCompletes : Obligations.LogicCompletes := by
  intro s
  simp only [← setZN_eq]
  exact ⟨reads_of_readInstr fun _ => rfl, reads_of_readInstr fun _ => rfl, reads_of_readInstr fun _ => rfl⟩

/-- Settles O45: each compare is `readInstr` with the flags of its difference, BIT with those of its operand. -/
theorem comparesAndBitComplete : Obligations.ComparesAndBitComplete := by
  intro s compared
  have hcompare (r m : Byte) (t : State) : t.setFlags (t.flags.compare r m) = { t with flags := compared t.flags r m } :=
    congrArg t.setFlags (Flags.compare_eq t.flags r m)
  refine ⟨reads_of_effect (fun _ => rfl) fun m t => hcompare t.a m t,
    reads_of_effect (fun _ => rfl) fun m t => hcompare t.x m t,
    reads_of_effect (fun _ => rfl) fun m t => hcompare t.y m t, fun l h => ?bit, fun l k h => ?fault⟩
  case bit =>
    obtain ⟨m, t, hr⟩ := busRead_ok_iff.mpr h
    have ht := (busRead_sameButReads hr).sameRegisters
    refine ⟨m, t, hr, (readInstr_of_load (o := .mem l) hr _).trans ?_⟩
    rw [Flags.bitTest_eq, ← ht.flags, ← ht.a]
    rfl
  case fault => exact readInstr_of_fault h _

/-- Settles O46: INC and DEC are `rmwInstr`, the shifts `shiftInstr`, each with its rule's byte and flags. -/
theorem readModifyWriteCompletes : Obligations.ReadModifyWriteCompletes := by
  intro s c inc dec asl lsr rol ror left right
  have hinc : Modifies .inc inc (fun f m => withZN f (inc m)) s :=
    modifies_of_rmwInstr (r := fun m => m + 1) (g := fun f m => f.setZN (m + 1)) (fun _ => rfl) add_one_eq fun m =>
      (setZN_eq s.flags (m + 1)).trans (congrArg (withZN s.flags) (add_one_eq m))
  have hdec : Modifies .dec dec (fun f m => withZN f (dec m)) s :=
    modifies_of_rmwInstr (r := fun m => m - 1) (g := fun f m => f.setZN (m - 1)) (fun _ => rfl) sub_one_eq fun m =>
      (setZN_eq s.flags (m - 1)).trans (congrArg (withZN s.flags) (sub_one_eq m))
  obtain ⟨haslMem, haslAcc⟩ := shifts_of_shiftInstr (i := .asl) (r' := asl) (g' := fun f m => left f m (asl m)) (s := s)
    (fun _ => rfl) aslResult_eq s.flags.asl_eq
  obtain ⟨hlsrMem, hlsrAcc⟩ := shifts_of_shiftInstr (i := .lsr) (r' := lsr)
    (g' := fun f m => { right f m (lsr m) with n := false }) (s := s) (fun _ => rfl) lsrResult_eq s.flags.lsr_eq
  obtain ⟨hrolMem, hrolAcc⟩ := shifts_of_shiftInstr (i := .rol) (r' := rol) (g' := fun f m => left f m (rol m)) (s := s)
    (fun _ => rfl) (rolResult_eq s.flags.c) s.flags.rol_eq
  obtain ⟨hrorMem, hrorAcc⟩ := shifts_of_shiftInstr (i := .ror) (r' := ror) (g' := fun f m => right f m (ror m)) (s := s)
    (fun _ => rfl) (rorResult_eq s.flags.c) s.flags.ror_eq
  exact ⟨hinc, hdec, haslMem, hlsrMem, hrolMem, hrorMem, haslAcc, hlsrAcc, hrolAcc, hrorAcc⟩

/-- Settles O48: each is one `complete` of two cycles, with the flags of `setZN`. -/
theorem indexIncrementsComplete : Obligations.IndexIncrementsComplete := by
  intro s
  have hup : ∀ v : Byte, BitVec.ofNat 8 ((v.toNat + 1) % 256) = v + 1 := fun v => by bv_omega
  have hdown : ∀ v : Byte, BitVec.ofNat 8 ((v.toNat + 255) % 256) = v - 1 := fun v => by bv_omega
  simp only [hup, hdown, ← setZN_eq]
  exact ⟨⟨rfl, rfl⟩, ⟨rfl, rfl⟩, ⟨rfl, rfl⟩, ⟨rfl, rfl⟩⟩

end Sys2Proof.Machine
end

section
/-! PROOF. What C, V, N and Z of ADC and SBC mean (43_arith_logic.md R127, R128): SBC is ADC of the complement, so that one reading
of the sum serves both. -/
namespace Sys2Proof.Machine

/-- The mask 0x80 tests the sign bit. -/
theorem and_signMask_ne_zero (v : Byte) : (v &&& 0x80 != 0) = v.getLsbD 7 := by
  rw [show (0x80 : Byte) = BitVec.twoPow 8 7 from rfl, BitVec.and_twoPow]
  cases v.getLsbD 7 <;> rfl

theorem getLsbD_seven_iff (v : Byte) : v.getLsbD 7 = true ↔ v.toInt < 0 := by
  rw [getLsbD_seven, decide_eq_true_iff, BitVec.toInt_neg_iff]
  omega

theorem not_toInt (m : Byte) : (~~~m).toInt = -1 - m.toInt := by
  have hm := m.isLt
  rw [BitVec.toInt_eq_toNat_cond, BitVec.toInt_eq_toNat_cond, not_toNat]
  omega

section
variable (f : Flags) (a m : Byte)

theorem adcResult_toNat (c : Bool) : (adcResult a m c).toNat = (a.toNat + m.toNat + c.toNat) % 256 := BitVec.toNat_ofNat ..

theorem Flags.adc_c_iff : (f.adc a m).c = true ↔ 256 ≤ a.toNat + m.toNat + f.c.toNat := decide_eq_true_iff

theorem Flags.adc_n_iff : (f.adc a m).n = true ↔ (adcResult a m f.c).toInt < 0 := getLsbD_seven_iff _

theorem Flags.adc_z_iff : (f.adc a m).z = true ↔ adcResult a m f.c = 0 := beq_iff_eq

/-- V of ADC: the result has neither operand's sign (43_arith_logic.md R127). -/
theorem Flags.adc_v_iff_signs : (f.adc a m).v = true ↔
    ¬ (a.toInt < 0 ↔ (adcResult a m f.c).toInt < 0) ∧ ¬ (m.toInt < 0 ↔ (adcResult a m f.c).toInt < 0) := by
  have hv : (f.adc a m).v = ((a ^^^ adcResult a m f.c) &&& (m ^^^ adcResult a m f.c)).getLsbD 7 := and_signMask_ne_zero _
  rw [hv, BitVec.getLsbD_and, BitVec.getLsbD_xor, BitVec.getLsbD_xor, ← getLsbD_seven_iff, ← getLsbD_seven_iff,
    ← getLsbD_seven_iff, ← Bool.eq_iff_iff, ← Bool.eq_iff_iff, Bool.and_eq_true, bne_iff_ne, bne_iff_ne]

/-- The signed result is the signed sum, wrapped into a byte. -/
theorem adcResult_toInt (c : Bool) : (adcResult a m c).toInt = (a.toInt + m.toInt + c.toNat).bmod 256 := by
  rw [adcResult, BitVec.toInt_ofNat', BitVec.toInt_eq_toNat_bmod, BitVec.toInt_eq_toNat_bmod, adcSum]
  push_cast
  simp only [Int.bmod]
  omega

/-- V of ADC says that the signed sum does not fit in a byte. -/
theorem Flags.adc_v_iff :
    (f.adc a m).v = true ↔ a.toInt + m.toInt + f.c.toNat < -128 ∨ 127 < a.toInt + m.toInt + f.c.toNat := by
  have hc := f.c.toNat_lt
  have ha := a.le_toInt
  have ha' := a.toInt_lt
  have hm := m.le_toInt
  have hm' := m.toInt_lt
  rw [Flags.adc_v_iff_signs, adcResult_toInt, Int.bmod]
  omega

/-- V of SBC, by its own sign test, is V of ADC with the complement, whose sign bit is the other one (43_arith_logic.md R128). -/
theorem Flags.sbc_eq_adc_not : f.sbc a m = f.adc a (~~~m) := by
  have hsigns : ∀ x y z : Bool, ((x ^^ y) && (x ^^ z)) = ((x ^^ z) && (!y ^^ z)) := by decide
  have hv (r : Byte) : ((a ^^^ m) &&& (a ^^^ r) &&& 0x80 != 0) = ((a ^^^ r) &&& (~~~m ^^^ r) &&& 0x80 != 0) := by
    rw [and_signMask_ne_zero, and_signMask_ne_zero]
    simpa using hsigns (a.getLsbD 7) (m.getLsbD 7) (r.getLsbD 7)
  rw [Flags.sbc, Flags.adc, sbcResult_eq_adcResult_not, sbcSum_eq_adcSum_not, hv]

end

/-- SBC adds the complement of its operand (43_arith_logic.md R128). -/
theorem exec_sbc_imm {s : State} (h : ¬ decimalTrap s = true) (m : Byte) :
    exec (.sbc (.imm m)) s = exec (.adc (.imm (~~~m))) s := by
  rw [exec_sbc h, exec_adc h, readInstr_of_load rfl, readInstr_of_load rfl, sbcResult_eq_adcResult_not, Flags.sbc_eq_adc_not]
  rfl

/-- What ADC of an immediate leaves in A and the flags. -/
theorem adc_imm_flags {s t : State} {m : Byte} (h : ¬ decimalTrap s = true) (he : exec (.adc (.imm m)) s = .next t) :
    t.a = adcResult s.a m s.flags.c ∧ t.flags = s.flags.adc s.a m := by
  rw [exec_adc h, readInstr_of_load rfl] at he
  cases he
  exact ⟨elapse_a .., elapse_flags ..⟩

/-- Settles O43: the sum's reading for ADC; SBC is ADC of the complement, `255 - m` unsigned and `-1 - m` signed. -/
theorem carryAndOverflowAreArithmetic : Obligations.CarryAndOverflowAreArithmetic := by
  intro s t m h
  rw [← decimalTrap_iff] at h
  refine ⟨fun he => ?adc, fun he => ?sbc⟩
  case adc =>
    obtain ⟨ha, hf⟩ := adc_imm_flags h he
    rw [ha, hf]
    exact ⟨adcResult_toNat .., Flags.adc_c_iff .., Flags.adc_v_iff .., Flags.adc_n_iff .., Flags.adc_z_iff ..⟩
  case sbc =>
    rw [exec_sbc_imm h] at he
    obtain ⟨ha, hf⟩ := adc_imm_flags h he
    have hm := m.isLt
    have hc := s.flags.c.toNat_lt
    rw [ha, hf, adcResult_toNat, Flags.adc_c_iff, Flags.adc_v_iff, not_toNat, not_toInt]
    exact ⟨by omega, by omega, by omega, Flags.adc_n_iff .., Flags.adc_z_iff ..⟩

end Sys2Proof.Machine
end

section
/-! PROOF. ROL and ROR of A turn one ring of nine bits, A with C above it, by one place (44_shift.md R144, R145): nine turns are a
full circle, and the two turns are inverse to each other. -/
namespace Sys2Proof.Machine

/-! The ring -/

/-- C above the eight bits of A: bit 8 is C, bits 7 to 0 are A. -/
def carryRing (s : State) : BitVec 9 := BitVec.cons s.flags.c s.a

theorem carryRing_inj {s t : State} (h : carryRing t = carryRing s) : t.a = s.a ∧ t.flags.c = s.flags.c := by
  have ha := congrArg (BitVec.setWidth 8) h
  have hc := congrArg BitVec.msb h
  simp only [carryRing, BitVec.setWidth_cons, BitVec.msb_cons] at ha hc
  exact ⟨ha, hc⟩

/-- One place to the left: bit 8 enters bit 0. -/
def turnLeft (w : BitVec 9) : BitVec 9 := w.rotateLeft 1

/-- One place to the right: bit 0 enters bit 8. -/
def turnRight (w : BitVec 9) : BitVec 9 := w.rotateRight 1

theorem turnLeft_getLsbD {i : Nat} (hi : i < 9) (w : BitVec 9) : (turnLeft w).getLsbD i = w.getLsbD ((i + 8) % 9) := by
  rw [turnLeft, BitVec.getLsbD_rotateLeft]
  obtain rfl | hpos := Nat.eq_zero_or_pos i
  · rfl
  · have hidx : (i + 8) % 9 = i - 1 := by omega
    simp [hidx, hi, Nat.ne_of_gt hpos]

theorem turnRight_getLsbD {i : Nat} (hi : i < 9) (w : BitVec 9) : (turnRight w).getLsbD i = w.getLsbD ((i + 1) % 9) := by
  rw [turnRight, BitVec.getLsbD_rotateRight]
  obtain rfl | hlt : i = 8 ∨ i < 8 := by omega
  · rfl
  · have hidx : (i + 1) % 9 = 1 + i := by omega
    simp [hidx, hlt]

theorem turnRight_turnLeft : Function.LeftInverse turnRight turnLeft := by
  intro w
  refine BitVec.eq_of_getLsbD_eq fun i hi => ?_
  have hidx : ((i + 1) % 9 + 8) % 9 = i := by omega
  rw [turnRight_getLsbD hi, turnLeft_getLsbD (Nat.mod_lt _ (by decide)), hidx]

theorem turnLeft_iterate_getLsbD (n : Nat) {i : Nat} (hi : i < 9) (w : BitVec 9) :
    (turnLeft^[n] w).getLsbD i = w.getLsbD ((i + 8 * n) % 9) := by
  induction n generalizing w with
  | zero => rw [Function.iterate_zero_apply, Nat.mul_zero, Nat.add_zero, Nat.mod_eq_of_lt hi]
  | succ n ih =>
    have hidx : ((i + 8 * n) % 9 + 8) % 9 = (i + 8 * (n + 1)) % 9 := by omega
    rw [Function.iterate_succ_apply, ih, turnLeft_getLsbD (Nat.mod_lt _ (by decide)), hidx]

theorem turnLeft_nine (w : BitVec 9) : turnLeft^[9] w = w := by
  refine BitVec.eq_of_getLsbD_eq fun i hi => ?_
  rw [turnLeft_iterate_getLsbD 9 hi, Nat.add_mul_mod_self_right i 8 9, Nat.mod_eq_of_lt hi]

/-- Nine turns to the right undo nine to the left, which change nothing. -/
theorem turnRight_nine (w : BitVec 9) : turnRight^[9] w = w := by
  have h := turnRight_turnLeft.iterate 9 w
  rwa [turnLeft_nine] at h

/-! The results of ROL and ROR as turns of the ring -/

theorem rolResult_getLsbD (c : Bool) (v : Byte) {i : Nat} (hi : i < 8) :
    (rolResult c v).getLsbD i = if i = 0 then c else v.getLsbD (i - 1) := by
  obtain rfl | hpos := Nat.eq_zero_or_pos i
  · simp [rolResult]
  · have hprev : i - 1 < 8 := by omega
    simp [rolResult, hi, Nat.ne_of_gt hpos, BitVec.getLsbD_eq_getElem hprev]

theorem rorResult_getLsbD (c : Bool) (v : Byte) {i : Nat} (hi : i < 8) :
    (rorResult c v).getLsbD i = if i = 7 then c else v.getLsbD (i + 1) := by
  obtain rfl | hlt : i = 7 ∨ i < 7 := by omega
  · simp [rorResult]
  · simp [rorResult, hlt, Nat.ne_of_lt hlt, Nat.add_comm]

theorem cons_rolResult (c : Bool) (v : Byte) : BitVec.cons (v.getLsbD 7) (rolResult c v) = turnLeft (BitVec.cons c v) := by
  refine BitVec.eq_of_getLsbD_eq fun i hi => ?_
  rw [turnLeft_getLsbD hi, BitVec.getLsbD_cons, BitVec.getLsbD_cons]
  obtain rfl | hlt : i = 8 ∨ i < 8 := by omega
  · rfl
  · rw [if_neg (Nat.ne_of_lt hlt), rolResult_getLsbD c v hlt]
    obtain rfl | hpos := Nat.eq_zero_or_pos i
    · rfl
    · have hidx : (i + 8) % 9 = i - 1 := by omega
      rw [hidx, if_neg (Nat.ne_of_gt hpos), if_neg (by omega)]

theorem cons_rorResult (c : Bool) (v : Byte) : BitVec.cons (v.getLsbD 0) (rorResult c v) = turnRight (BitVec.cons c v) := by
  refine BitVec.eq_of_getLsbD_eq fun i hi => ?_
  rw [turnRight_getLsbD hi, BitVec.getLsbD_cons, BitVec.getLsbD_cons]
  obtain rfl | hlt : i = 8 ∨ i < 8 := by omega
  · rfl
  · have hidx : (i + 1) % 9 = i + 1 := by omega
    simp only [hidx, if_neg (Nat.ne_of_lt hlt), rorResult_getLsbD c v hlt, Nat.reduceEqDiff]

/-! The instructions -/

/-- The state after a shift of A with the result `r s` and the flags `g s` (40_dispatch.md R97). -/
def afterShiftA (r : State → Byte) (g : State → Flags) (s : State) : State :=
  elapse 2 (((s.setA (r s)).setFlags (g s)).setPc (nextPc .acc s))

/-- The state after ROL A. -/
def afterRol : State → State := afterShiftA (fun s => rolResult s.flags.c s.a) fun s => s.flags.rol s.a

/-- The state after ROR A. -/
def afterRor : State → State := afterShiftA (fun s => rorResult s.flags.c s.a) fun s => s.flags.ror s.a

theorem exec_rol_acc (s : State) : exec (.rol .acc) s = .next (afterRol s) := rfl

theorem exec_ror_acc (s : State) : exec (.ror .acc) s = .next (afterRor s) := rfl

theorem afterShiftA_cyc (r : State → Byte) (g : State → Flags) (s : State) : (afterShiftA r g s).cyc = s.cyc + 2 :=
  elapse_cyc 2 _

theorem carryRing_afterShiftA (r : State → Byte) (g : State → Flags) (s : State) :
    carryRing (afterShiftA r g s) = BitVec.cons (g s).c (r s) := by
  simp [carryRing, afterShiftA]

theorem carryRing_afterRol : Function.Semiconj carryRing afterRol turnLeft := fun s =>
  (carryRing_afterShiftA ..).trans (cons_rolResult s.flags.c s.a)

theorem carryRing_afterRor : Function.Semiconj carryRing afterRor turnRight := fun s =>
  (carryRing_afterShiftA ..).trans (cons_rorResult s.flags.c s.a)

/-! Repeated instructions -/

/-- An instruction that always completes, repeated, iterates the state it completes with. -/
theorem execTimes_of_next {i : Instr} {f : State → State} (h : ∀ s, exec i s = .next (f s)) (n : Nat) (s : State) :
    execTimes n i s = .next (f^[n] s) := by
  induction n generalizing s with
  | zero => rfl
  | succ n ih => rw [execTimes, h, Function.iterate_succ_apply, ← ih]

/-- Nine rotations are a full circle of the ring, in nine times two cycles. -/
theorem nineTimes_of_turn {i : Instr} {f : State → State} {turn : BitVec 9 → BitVec 9} (hexec : ∀ s, exec i s = .next (f s))
    (hring : Function.Semiconj carryRing f turn) (hcyc : Function.Semiconj State.cyc f (· + 2))
    (hnine : ∀ w, turn^[9] w = w) (s : State) :
    ∃ t, execTimes 9 i s = .next t ∧ t.a = s.a ∧ t.flags.c = s.flags.c ∧ t.cyc = s.cyc + 18 := by
  have hcircle : carryRing (f^[9] s) = carryRing s := (hring.iterate_right 9 s).trans (hnine _)
  obtain ⟨ha, hc⟩ := carryRing_inj hcircle
  exact ⟨f^[9] s, execTimes_of_next hexec 9 s, ha, hc, hcyc.iterate_right 9 s⟩

/-- Settles O47: ROL turns the ring of C and A to the left and ROR to the right. -/
theorem nineRotationsReturn : Obligations.NineRotationsReturn := by
  intro s
  have hundo : carryRing (afterRor (afterRol s)) = carryRing s := by
    rw [carryRing_afterRor, carryRing_afterRol, turnRight_turnLeft]
  exact ⟨nineTimes_of_turn exec_rol_acc carryRing_afterRol (afterShiftA_cyc _ _) turnLeft_nine s,
    nineTimes_of_turn exec_ror_acc carryRing_afterRor (afterShiftA_cyc _ _) turnRight_nine s,
    afterRol s, afterRor (afterRol s), exec_rol_acc s, exec_ror_acc _, carryRing_inj hundo⟩

end Sys2Proof.Machine
end

section
/-! PROOF. Subroutines and interrupts (45_control.md R147, R148, R158, R159, 60_exceptions.md R174, R177): what each pushes and pulls
as one change of the state, and that a return takes back what its entry pushed. -/
namespace Sys2Proof.Machine

/-! Entries and returns, as one change of the state -/

theorem push16_eq (w : Word) (s : State) :
    push16 w s = { s with
      ram := (s.ram.write (0x100 + s.sp.toNat) (hiByte w)).write (0x100 + (s.sp - 1).toNat) (loByte w)
      sp := s.sp - 2 } := by
  rw [← push16_sp w s]
  rfl

/-- The third byte pushed is the status byte, and only then is I set (45_control.md R158, 60_exceptions.md R174). -/
theorem enterInterrupt_eq (ret : Word) (b : Bool) (vector : Word) (s : State) :
    enterInterrupt ret b vector s = { s with
      ram := ((s.ram.write (0x100 + s.sp.toNat) (hiByte ret)).write (0x100 + (s.sp - 1).toNat) (loByte ret)).write
        (0x100 + (s.sp - 2).toNat) (statusByte s.flags b)
      sp := s.sp - 3
      flags := { s.flags with i := true }
      pc := mkWord (prgRead (vector + 1) s) (prgRead vector s) } := by
  have hsp : s.sp - 3 = s.sp - 2 - 1 := by bv_omega
  rw [enterInterrupt, push16_eq, pack_eq, hsp]
  rfl

/-- The flags are pulled first, then the address, with nothing added to it (45_control.md R159). -/
theorem leaveInterrupt_eq (s : State) :
    leaveInterrupt s = { s with
      flags := Flags.unpack (s.ram.read (stackIndex (s.sp + 1)))
      sp := s.sp + 3
      pc := mkWord (s.ram.read (stackIndex (s.sp + 3))) (s.ram.read (stackIndex (s.sp + 2))) } := by
  have hlow : s.sp + 1 + 1 = s.sp + 2 := by bv_omega
  have hhigh : s.sp + 1 + 2 = s.sp + 3 := by bv_omega
  rw [← hlow, ← hhigh]
  exact congrArg (fun r : Word × State => r.2.setPc r.1) (pop16_eq _)

theorem exec_jsr (a : Word) (s : State) : exec (.jsr a) s = complete a 6 (push16 (s.pc + 2) s) := rfl

theorem exec_rts (s : State) : exec .rts s = complete ((pop16 s).1 + 1) 6 (pop16 s).2 := rfl

theorem exec_brk (s : State) : exec .brk s = .next (elapse 7 (enterInterrupt (s.pc + 2) true brkVector s)) := rfl

theorem exec_rti (s : State) : exec .rti s = .next (elapse 6 (leaveInterrupt s)) := rfl

/-- A step that takes an NMI is its entry and no instruction (60_exceptions.md R174, R176). -/
theorem step_of_nmiTaken {s : State} (hf : s.fault = none) (hn : nmiTaken s) : step s = nmiEntry s := by
  unfold step
  rw [hf]
  exact if_pos hn

/-- Settles O50: JSR is one `push16` and RTS one `pop16`. -/
theorem callAndReturnComplete : Obligations.CallAndReturnComplete := by
  refine fun s => ⟨fun a => ⟨rfl, ?jsr⟩, rfl, ?rts⟩
  case jsr => rw [exec_jsr, push16_eq]; rfl
  case rts => rw [exec_rts, pop16_eq]; rfl

/-- Settles O53: BRK enters an interrupt and RTI leaves one. -/
theorem breakAndReturnComplete : Obligations.BreakAndReturnComplete := by
  refine fun s => ⟨⟨rfl, ?brk⟩, rfl, ?rti⟩
  case brk => rw [exec_brk, enterInterrupt_eq]; rfl
  case rti => rw [exec_rti, leaveInterrupt_eq]; rfl

/-! A return takes back what its entry pushed -/

/-- Only B comes back as it was packed and not as it was stored (10_state.md R20, R21). -/
theorem unpack_pack (f : Flags) (b : Bool) : Flags.unpack (f.pack b) = { f with b := b } := by
  simp only [Flags.unpack, Flags.pack, BitVec.getLsbD_append, BitVec.getLsbD_ofBool]
  simp

section
variable {s : State} (h : Inv s)
include h

/-- Of a state with a word on its stack, only RAM and SP matter to the pop. -/
theorem pop16_of_pushed {t : State} {w : Word} (hram : t.ram = (push16 w s).ram) (hsp : t.sp = (push16 w s).sp) :
    pop16 t = (w, t.setSp s.sp) := by
  have hpop := pop16_push16 h w
  rw [pop16_eq, ← hram, ← hsp] at hpop
  obtain ⟨hw, hs⟩ := Prod.mk.inj hpop
  have hsp' : t.sp + 2 = s.sp := congrArg State.sp hs
  rw [pop16_eq, hw, hsp']

theorem Inv.push16 (w : Word) : Inv (push16 w s) := (h.push _).push _

/-- The three bytes of an interrupt's frame: the status byte was pushed last, and lies lowest. -/
theorem enterInterrupt_reads (ret : Word) (b : Bool) (vector : Word) :
    (enterInterrupt ret b vector s).ram.read (stackIndex (s.sp - 2)) = s.flags.pack b ∧
      (enterInterrupt ret b vector s).ram.read (stackIndex (s.sp - 1)) = loByte ret ∧
      (enterInterrupt ret b vector s).ram.read (stackIndex s.sp) = hiByte ret := by
  have hpush := h.push16 ret
  have hlow : s.sp - 1 ≠ (push16 ret s).sp := by rw [push16_sp]; bv_omega
  have hhigh : s.sp ≠ (push16 ret s).sp := by rw [push16_sp]; bv_omega
  rw [← push16_sp ret s]
  exact ⟨push_read_same hpush _, (push_read_other hpush _ hlow).trans (push16_read_low h ret),
    (push_read_other hpush _ hhigh).trans (push16_read_high h ret)⟩

/-- The frame is pulled whole: the flags before the entry but for B, the return address, and SP as before the entry. -/
theorem leaveInterrupt_of_entered {t : State} {ret : Word} {b : Bool} {vector : Word}
    (hram : t.ram = (enterInterrupt ret b vector s).ram) (hsp : t.sp = (enterInterrupt ret b vector s).sp) :
    leaveInterrupt t = { t with flags := { s.flags with b := b }, sp := s.sp, pc := ret } := by
  obtain ⟨hstatus, hlow, hhigh⟩ := enterInterrupt_reads h ret b vector
  have hsp' : t.sp = s.sp - 3 := by rw [hsp, enterInterrupt_eq]
  have hsp1 : t.sp + 1 = s.sp - 2 := by rw [hsp']; bv_omega
  have hsp2 : t.sp + 2 = s.sp - 1 := by rw [hsp']; bv_omega
  have hsp3 : t.sp + 3 = s.sp := by rw [hsp']; bv_omega
  rw [← hram] at hstatus hlow hhigh
  rw [leaveInterrupt_eq, hsp1, hsp2, hsp3, hstatus, hlow, hhigh, unpack_pack, mkWord_hi_lo]

/-- RTI after an entry resumes at the return address, with SP, A, X, Y and every flag but B as before the entry
(60_exceptions.md R177). -/
theorem rti_after_enterInterrupt (ret : Word) (b : Bool) (vector : Word) :
    ∃ u, exec .rti (elapse 7 (enterInterrupt ret b vector s)) = .next u ∧ u.pc = ret ∧ u.sp = s.sp ∧
      u.flags = { s.flags with b := b } ∧ u.a = s.a ∧ u.x = s.x ∧ u.y = s.y := by
  refine ⟨_, exec_rti _, ?_⟩
  rw [leaveInterrupt_of_entered h (elapse_ram ..) (elapse_sp ..)]
  simp [enterInterrupt_eq]

end

/-- Settles O51: RTS pops the word that JSR pushed, and adds 1 to it. -/
theorem callThenReturnResumes : Obligations.CallThenReturnResumes := by
  intro s t a h ht
  cases ht
  refine ⟨by simp, _, exec_rts _, ?_⟩
  rw [pop16_of_pushed h (w := s.pc + 2) (by simp) (by simp)]
  simp [push16, BitVec.add_assoc]

/-- Settles O54: both entries are `enterInterrupt`, with B pushed as 1 by BRK and as 0 by the NMI entry. -/
theorem interruptThenReturnResumes : Obligations.InterruptThenReturnResumes := by
  refine ⟨fun s t h ht => ?brk, fun s t h hf hn ht => ?nmi⟩
  case brk =>
    cases ht
    exact rti_after_enterInterrupt h (s.pc + 2) true brkVector
  case nmi =>
    rw [step_of_nmiTaken hf hn] at ht
    cases ht
    have hcleared : Inv (s.setNmiPending false) := { h with noNmiWithoutModel := fun _ => rfl }
    exact rti_after_enterInterrupt hcleared s.pc false nmiVector

end Sys2Proof.Machine
end

section
/-! PROOF. JMP (45_control.md R146, 30_encoding.md Table R91): whether an access faults depends only on its page, so the pointer's second
byte can be read when its first can. -/
namespace Sys2Proof.Machine

theorem loByte_add_one (w : Word) : loByte (w + 1) = loByte w + 1 := by
  have hone : (1 : Word).toNat = 1 := rfl
  apply BitVec.eq_of_toNat_eq
  rw [loByte_toNat, BitVec.toNat_add, BitVec.toNat_add, loByte_toNat, hone, Nat.mod_mod_of_dvd _ (by decide), Nat.mod_add_mod]
  rfl

/-- The high byte's address by the rule's masks: the next address of the same page, its offset wrapped. -/
theorem nextInPage_eq_masks (q : Word) :
    mkWord (hiByte q) (loByte q + 1) = (q &&& 0xFF00) ||| ((q + 1) &&& 0x00FF) := by
  rw [← loByte_add_one]
  apply BitVec.eq_of_getLsbD_eq
  intro i hi
  simp only [mkWord, hiByte, loByte, BitVec.getLsbD_append, BitVec.getLsbD_extractLsb', BitVec.getLsbD_or, BitVec.getLsbD_and]
  interval_cases i <;> simp

/-- The two addresses are of one page, and the ranges of 20_memory.md R50 to R53 that fault are whole pages. -/
theorem accessFault_samePage {p q : Word} {s : State} (hpage : p.toNat / 256 = q.toNat / 256)
    (h : accessFault q s = none) : accessFault p s = none := by
  cases hp : accessFault p s with
  | none => rfl
  | some k =>
    rcases accessFault_cases hp with ⟨_, hlo, hhi⟩ | ⟨_, hlo, hhi, habsent⟩ | ⟨_, hlo, hhi, hpresent, hoff⟩
    · rw [accessFault_unbacked s (by omega) (by omega)] at h
      cases h
    · rw [accessFault_prgRam s (by omega) (by omega), habsent] at h
      cases h
    · rw [accessFault_prgRam s (by omega) (by omega), hpresent, hoff] at h
      cases h

/-- When the pointer's first byte can be read, both can, and they are the target. -/
theorem readIndirect_of_readable {q : Word} {s : State} (h : accessFault q s = none) :
    ∃ lo t hi u, busRead q s = .ok lo t ∧ busRead (mkWord (hiByte q) (loByte q + 1)) t = .ok hi u ∧
      readIndirect q s = .ok (mkWord hi lo) u := by
  obtain ⟨lo, t, hlow⟩ := busRead_ok_iff.mpr h
  have hpage : (mkWord (hiByte q) (loByte q + 1)).toNat / 256 = q.toNat / 256 := by
    rw [← hiByte_toNat, hiByte_mkWord, hiByte_toNat]
  have hreadable : accessFault (mkWord (hiByte q) (loByte q + 1)) t = none := by
    rw [(busRead_sameButReads hlow).accessFault]
    exact accessFault_samePage hpage h
  obtain ⟨hi, u, hhigh⟩ := busRead_ok_iff.mpr hreadable
  exact ⟨lo, t, hi, u, hlow, hhigh, by rw [readIndirect, hlow, Access.andThen_ok, hhigh, Access.andThen_ok]⟩

theorem exec_jmp_abs (a : Word) (s : State) : exec (.jmp (.abs a)) s = complete a 3 s := rfl

theorem exec_jmp_ind (q : Word) (s : State) :
    exec (.jmp (.ind q)) s = (readIndirect q s).run fun w t => complete w 5 t := rfl

/-- Settles O49: the indirect jump goes where its two pointer reads say, and a first read that fails ends it. -/
theorem jumpCompletes : Obligations.JumpCompletes := by
  intro s
  refine ⟨fun a => ⟨rfl, exec_jmp_abs a s⟩, fun q => ?_⟩
  intro q'
  refine ⟨rfl, fun h => ?readable, fun k h => ?faulting⟩
  case readable =>
    obtain ⟨lo, t, hi, u, hlow, hhigh, hread⟩ := readIndirect_of_readable h
    have hq' : mkWord (hiByte q) (loByte q + 1) = q' := nextInPage_eq_masks q
    rw [hq'] at hhigh
    exact ⟨lo, t, hi, u, hlow, hhigh, by rw [exec_jmp_ind, hread]; rfl⟩
  case faulting =>
    rw [exec_jmp_ind, readIndirect, (access_of_fault 0 h).1]
    rfl

end Sys2Proof.Machine
end

section
/-! PROOF. Flag instructions and NOP (46_flags_misc.md R160 to R167): each is one `complete` of two cycles that at most replaces the
flags. -/
namespace Sys2Proof.Machine

/-- An instruction that only replaces the flags changes no more than them and PC, and what its two cycles bring. -/
theorem exec_of_setFlags {i : Instr} {f : Flags} {s : State} (h : exec i s = complete (nextPc .imp s) 2 (s.setFlags f)) :
    exec i s = .next (elapse 2 { s with flags := f, pc := s.pc + 1 }) := h

/-- NOP is the case where the flags are replaced by themselves (46_flags_misc.md R167). -/
theorem exec_nop (s : State) : exec .nop s = complete (nextPc .imp s) 2 (s.setFlags s.flags) := rfl

/-- Settles O55: each instruction replaces the flags, NOP by the same ones. -/
theorem flagInstructionsComplete : Obligations.FlagInstructionsComplete := by
  intro s
  refine ⟨⟨rfl, ?clc⟩, ⟨rfl, ?sec⟩, ⟨rfl, ?cli⟩, ⟨rfl, ?sei⟩, ⟨rfl, ?clv⟩, ⟨rfl, ?cld⟩, ⟨rfl, ?sed⟩, ⟨rfl, ?nop⟩⟩
  case nop => exact exec_of_setFlags (exec_nop s)
  all_goals exact exec_of_setFlags rfl

end Sys2Proof.Machine
end

section
/-! PROOF. The NMI (60_exceptions.md R173, R174): its line rises at a control write or at a tick's event and nowhere else, no operation
of an instruction takes a pending one back, and the entry is an interrupt with B pushed as 0. -/
namespace Sys2Proof.Machine

/-! The two events that can raise the line -/

/-- The line follows bit 7 of the written byte (20_memory.md R68). -/
theorem nmiLine_ctrlWrite (v : Byte) (s : State) : nmiLine (ctrlWrite v s) = (s.ppu.vblank && v.getLsbD 7) := rfl

theorem ctrlWrite_nmiPending_of_rise (v : Byte) (s : State) :
    (ctrlWrite v s).nmiPending =
      (s.nmiPending || (decide (s.cfg.params.nmiModel = .vblankEdge) && !nmiLine s && nmiLine (ctrlWrite v s))) := by
  rw [ctrlWrite_nmiPending_eq, nmiLine_ctrlWrite, nmiLine]
  cases s.ppu.vblank <;> simp

/-- The counters are no part of the line. -/
theorem nmiLine_advanceDot (s : State) : nmiLine (s.setPpu (advanceDot s.ppu)) = nmiLine s := by
  unfold advanceDot
  split_ifs <;> rfl

/-- At (241, 1) vblank rises, at (261, 1) it falls, elsewhere the line stays (60_exceptions.md R180). -/
theorem vblEvents_nmiPending (s : State) :
    (vblEvents s).nmiPending =
      (s.nmiPending || (decide (s.cfg.params.nmiModel = .vblankEdge) && !nmiLine s && nmiLine (vblEvents s))) := by
  unfold vblEvents
  split_ifs with hset hclear
  · show (s.nmiPending || (decide _ && s.ppu.ctrl.getLsbD 7 && !s.ppu.vblank)) =
      (s.nmiPending || (decide _ && !(s.ppu.vblank && s.ppu.ctrl.getLsbD 7) && (true && s.ppu.ctrl.getLsbD 7)))
    cases s.ppu.ctrl.getLsbD 7 <;> simp
  · simp [nmiLine]
  · simp

theorem tick_nmiPending_of_rise (s : State) :
    (tick s).nmiPending =
      (s.nmiPending || (decide (s.cfg.params.nmiModel = .vblankEdge) && !nmiLine s && nmiLine (tick s))) := by
  rw [← nmiLine_advanceDot s]
  exact vblEvents_nmiPending _

/-! What leaves a pending NMI alone -/

theorem ppuWrite_nmiPending_of_ne_ctrl {r : PpuReg} (v : Byte) (s : State) (h : r ≠ .ctrl) :
    (ppuWrite r v s).nmiPending = s.nmiPending := by
  cases r with
  | ctrl => exact absurd rfl h
  | mask | status | oamAddr | oamData => rfl
  | scroll => dsimp only [ppuWrite, scrollWrite]; split <;> rfl
  | addr => dsimp only [ppuWrite, addrWrite]; split <;> rfl
  | data =>
    show (ppuMemWrite _ v _).nmiPending = s.nmiPending
    rw [ppuMemWrite_eq]
    rfl

theorem ppuRead_nmiPending (r : PpuReg) (s : State) : (ppuRead r s).2.nmiPending = s.nmiPending := by
  rw [ppuRead_sameButReads r s]

/-! A pending NMI stays pending -/

/-- An NMI is pending. -/
def NmiIsPending (s : State) : Prop := s.nmiPending = true

theorem NmiIsPending.tick {s : State} (h : NmiIsPending s) : NmiIsPending (tick s) := by
  unfold NmiIsPending at *
  rw [tick_nmiPending_of_rise, h, Bool.true_or]

theorem NmiIsPending.drain {n : Nat} {s : State} (h : NmiIsPending s) : NmiIsPending (drain n s) := by
  induction n generalizing s with
  | zero => exact h
  | succ k ih => exact ih (s := (Machine.tick s).setPpu _) h.tick

theorem NmiIsPending.ppuWrite {s : State} (h : NmiIsPending s) (r : PpuReg) (v : Byte) : NmiIsPending (ppuWrite r v s) := by
  by_cases hr : r = .ctrl
  · subst hr
    show (ctrlWrite v s).nmiPending = true
    rw [ctrlWrite_nmiPending_of_rise, h, Bool.true_or]
  · exact (ppuWrite_nmiPending_of_ne_ctrl v s hr).trans h

theorem NmiIsPending.busWrite {a : Word} {v : Byte} {s t : State} (h : NmiIsPending s) (hw : busWrite a v s = .ok () t) :
    NmiIsPending t := by
  rcases busWrite_cases hw with ⟨_, _, rfl⟩ | ⟨r, _, rfl⟩ | ⟨_, _, _, rfl⟩ | ⟨_, rfl⟩
  · exact h
  · exact h.ppuWrite r v
  · exact h
  · rw [mapWrite_eq]
    exact h

/-- Only the NMI entry clears it, and that is no operation of an instruction. -/
theorem kept_nmiIsPending : Kept NmiIsPending where
  regs _ _ _ _ _ _ _ h := h
  push _ _ h := h
  read r s h := (ppuRead_nmiPending r s).trans h
  write _ _ _ _ h hw := h.busWrite hw
  time c s h := NmiIsPending.drain (s := (s.setCyc (s.cyc + c)).setPpu _) h
  fault _ _ h := h

/-- Settles O9: the two events by the line before and after them, the instructions by the induction over their operations. -/
theorem nmiPendingOnRisingEdge : Obligations.NmiPendingOnRisingEdge :=
  ⟨fun s v => ctrlWrite_nmiPending_of_rise v s, tick_nmiPending_of_rise,
    fun _ v s h => ppuWrite_nmiPending_of_ne_ctrl v s h, ppuRead_nmiPending,
    fun _ _ t h hs => kept_nmiIsPending.exec hs t h⟩

/-- Settles O8: the entry is `enterInterrupt` at PC itself, from the state whose pending NMI is cleared. -/
theorem nmiEntryPushesAndVectors : Obligations.NmiEntryPushesAndVectors := by
  intro s hf hn
  rw [step_of_nmiTaken hf hn, nmiEntry, enterInterrupt_eq]
  rfl

end Sys2Proof.Machine
end

section
/-! PROOF. Vertical-blank timing (60_exceptions.md R179, R180, R182): the count of ticks since (261, 0) is the position, and within one
frame of it fixes vblank. -/
namespace Sys2Proof.Machine

/-! The events of a tick, at the position that it reaches -/

section
variable (s : State)

theorem vblEvents_scanline : (vblEvents s).ppu.scanline = s.ppu.scanline := by
  unfold vblEvents
  split_ifs <;> rfl

theorem vblEvents_cycle : (vblEvents s).ppu.cycle = s.ppu.cycle := by
  unfold vblEvents
  split_ifs <;> rfl

theorem vblEvents_vblank :
    (vblEvents s).ppu.vblank =
      if s.ppu.scanline = 241 ∧ s.ppu.cycle = 1 then true
      else if s.ppu.scanline = 261 ∧ s.ppu.cycle = 1 then false
      else s.ppu.vblank := by
  unfold vblEvents
  split_ifs <;> rfl

theorem advanceDot_vblank (p : Ppu) : (advanceDot p).vblank = p.vblank := by
  unfold advanceDot
  split_ifs <;> rfl

theorem tick_vblank :
    (tick s).ppu.vblank =
      if (tick s).ppu.scanline = 241 ∧ (tick s).ppu.cycle = 1 then true
      else if (tick s).ppu.scanline = 261 ∧ (tick s).ppu.cycle = 1 then false
      else s.ppu.vblank := by
  rw [tick, vblEvents_vblank, vblEvents_scanline, vblEvents_cycle, ← advanceDot_vblank s.ppu]
  rfl

end

/-! The ticks from the pre-render scanline -/

/-- `s` is `k` ticks past (261, 0) of the frame `f`, and after the first of them vblank has been cleared, and is set from tick
82523 on (60_exceptions.md R182). -/
structure TicksPastPreRender (f k : Nat) (s : State) : Prop where
  dotInRange : s.ppu.scanline ≤ 261 ∧ s.ppu.cycle ≤ 340
  position_eq : position s.ppu = (f * 262 + 261) * 341 + k
  vblank_eq : 1 ≤ k → s.ppu.vblank = decide (341 * 242 + 1 ≤ k)

section
variable {f k : Nat} {s : State}

/-- Within a frame's ticks, only tick 1 reaches (261, 1), and only tick 82523 reaches (241, 1). -/
theorem TicksPastPreRender.tick (h : TicksPastPreRender f k s) (hk : k + 1 ≤ 341 * 262) :
    TicksPastPreRender f (k + 1) (tick s) := by
  have hdot := tick_dotInRange h.dotInRange
  have hpos : position (Machine.tick s).ppu = (f * 262 + 261) * 341 + (k + 1) := by
    rw [position_tick h.dotInRange, h.position_eq, Nat.add_assoc]
  refine ⟨hdot, hpos, fun _ => ?_⟩
  unfold position at hpos
  rw [tick_vblank]
  split_ifs with hset hclear
  · have hsince : 341 * 242 + 1 ≤ k + 1 := by omega
    exact (decide_eq_true hsince).symm
  · have hbefore : ¬ 341 * 242 + 1 ≤ k + 1 := by omega
    exact (decide_eq_false hbefore).symm
  · rw [h.vblank_eq (by omega), decide_eq_decide]
    omega

theorem TicksPastPreRender.drain {n : Nat} (h : TicksPastPreRender f k s) (hk : k + n ≤ 341 * 262) :
    TicksPastPreRender f (k + n) (drain n s) := by
  induction n generalizing s k with
  | zero => exact h
  | succ n ih =>
    obtain ⟨hdot, hpos, hvblank⟩ := h.tick (by omega)
    have hnext : k + 1 + n = k + (n + 1) := Nat.add_right_comm k 1 n
    rw [← hnext] at hk ⊢
    exact ih (s := (Machine.tick s).setPpu _) ⟨hdot, hpos, hvblank⟩ hk

/-- The position that the count stands for, `w` frames later: 262 scanlines of 341 ticks to a frame. -/
theorem TicksPastPreRender.reaches (h : TicksPastPreRender f k s) (w line dot : Nat) (hline : line ≤ 261) (hdot : dot ≤ 340)
    (hk : 261 * 341 + k = (w * 262 + line) * 341 + dot) :
    s.ppu.frame = f + w ∧ s.ppu.scanline = line ∧ s.ppu.cycle = dot := by
  obtain ⟨⟨hscanline, hcycle⟩, hpos, _⟩ := h
  unfold position at hpos
  omega

theorem ticksPastPreRender_catchUp {n : Nat} (hscanline : s.ppu.scanline = 261) (hcycle : s.ppu.cycle = 0)
    (hpending : s.ppu.pending = 0) (hn : n ≤ 341 * 262) : TicksPastPreRender s.ppu.frame n (catchUp n s) := by
  have hstart : TicksPastPreRender s.ppu.frame 0 (s.setPpu { s.ppu with pending := n }) := by
    refine ⟨?_, ?_, fun h => absurd h (by decide)⟩ <;> simp [position, hscanline, hcycle]
  have hend := hstart.drain (n := n) (by omega)
  rw [Nat.zero_add] at hend
  rw [catchUp, hpending, Nat.zero_add]
  exact hend

end

/-- Settles O34: each count of ticks fixes vblank and the position. -/
theorem vblankTimingFromPreRender : Obligations.VblankTimingFromPreRender := by
  intro s hscanline hcycle hpending
  have past (n : Nat) (hn : n ≤ 341 * 262) : TicksPastPreRender s.ppu.frame n (catchUp n s) :=
    ticksPastPreRender_catchUp hscanline hcycle hpending hn
  refine ⟨fun n hlo hhi => ?clear, fun n hlo hhi => ?set, ?tick1, ?tick341, ?tick7162, ?tick82523, ?tick89342⟩
  case clear => rw [(past n (by omega)).vblank_eq hlo, decide_eq_false (by omega)]
  case set => rw [(past n hhi).vblank_eq (by omega), decide_eq_true hlo]
  case tick1 => exact ((past 1 (by decide)).reaches 0 261 1 (by decide) (by decide) rfl).2
  case tick341 => exact ((past 341 (by decide)).reaches 1 0 0 (by decide) (by decide) rfl).2
  case tick7162 => exact ((past (341 * 21 + 1) (by decide)).reaches 1 20 1 (by decide) (by decide) rfl).2
  case tick82523 => exact ((past (341 * 242 + 1) (by decide)).reaches 1 241 1 (by decide) (by decide) rfl).2
  case tick89342 =>
    obtain ⟨hframe, hline, hdot⟩ := (past (341 * 262) (by decide)).reaches 1 261 0 (by decide) (by decide) rfl
    exact ⟨hline, hdot, hframe⟩

end Sys2Proof.Machine
end

section
/-! PROOF. How a step ends (40_dispatch.md R97, R102, 70_reset_and_hazards.md R200): the instruction's or the NMI entry's cycles pass,
or a fault is recorded and none pass. -/
namespace Sys2Proof.Machine

/-- The two ways a step from `s` to `t` ends: 2 to 7 cycles pass over a state with the clock of `s`, or a fault is recorded in one. -/
inductive StepEnds (s t : State) : Prop where
  | completes (c : Nat) (u : State) (lo : 2 ≤ c) (hi : c ≤ 7) (same : SameClock s u) (eq : t = elapse c u) : StepEnds s t
  | faults (r : FaultRecord) (u : State) (same : SameClock s u) (eq : t = u.setFault (some r)) : StepEnds s t

/-- An instruction that was fetched ends the step as it ends itself. -/
theorem exec_stepEnds {i : Instr} {s u t : State} (hu : SameClock s u) (h : exec i u = .next t) : StepEnds s t := by
  cases exec_ends i u with
  | completes c w lo hi same eq =>
    cases eq.symm.trans h
    exact .completes c w lo hi (hu.trans same) rfl
  | faults k w same _ eq =>
    cases eq.symm.trans h
    exact .faults _ w (hu.trans same.sameClock) rfl

theorem fault_eq_none_of_step {s t : State} (h : step s = .next t) : s.fault = none := by
  cases hf : s.fault with
  | none => rfl
  | some r => cases (step_of_fault hf).symm.trans h

theorem step_ends {s t : State} (h : step s = .next t) : StepEnds s t := by
  have hf := fault_eq_none_of_step h
  by_cases hnmi : nmiTaken s
  · have hclear : SameClock s (s.setNmiPending false) := ⟨rfl, rfl, rfl, rfl, rfl, rfl, rfl⟩
    cases (step_of_nmiTaken hf hnmi).symm.trans h
    exact .completes 7 _ (by decide) (by decide) (hclear.trans (enterInterrupt_sameClock _ _ _ _)) rfl
  · have hclock := (fetch_after s).sameClock
    cases hr : fetch s with
    | ok i u =>
      rw [hr] at hclock
      exact exec_stepEnds hclock ((step_of_fetch hf hnmi hr).symm.trans h)
    | raise k u =>
      rw [hr] at hclock
      cases (step_of_fetch_raise hf hnmi hr).symm.trans h
      exact .faults _ u hclock rfl

/-- Settles O13: the cycles of a step that completes are 2 to 7, and a step that faults leaves CYC alone. -/
theorem stepCycleBounds : Obligations.StepCycleBounds := by
  intro s t h
  cases step_ends h with
  | completes c u lo hi same eq =>
    have hfault : t.fault = none := by rw [eq, elapse_fault, same.fault, fault_eq_none_of_step h]
    have hcyc : t.cyc = s.cyc + c := by rw [eq, elapse_cyc, same.cyc]
    exact ⟨fun _ => by omega, fun hne => absurd hfault hne⟩
  | faults r u same eq =>
    subst eq
    exact ⟨nofun, fun _ => same.cyc⟩

end Sys2Proof.Machine
end

section
/-! PROOF. The construction checks and their order (70_reset_and_hazards.md R189): construction answers the first check that fails. -/
namespace Sys2Proof.Machine

section
variable {img : Image} (params : Params) (d : PowerOn)

theorem construct_of_imageError {k : ErrorKind} (h : imageError img = some k) : construct img params d = .error k := by
  rw [construct, h]

theorem construct_of_no_imageError (h : imageError img = none) :
    construct img params d = .ok (boot (built (configOf img params) d)) := by
  rw [construct, h]

end

/-- Settles O17: each clause is a path through the checks of `imageError`. -/
theorem constructionChecksInOrder : Obligations.ConstructionChecksInOrder := by
  intro img params d prgBad chrBad ramBad
  have hram : ramBad ↔ ¬ (img.prgRamUnits = 0 ∨ img.prgRamUnits = 1) := not_or.symm
  refine ⟨fun hprg => ?prg, fun hprg hchr => ?chr, fun hprg hchr hbad => ?ram, fun hprg hchr hbad hid => ?mapper,
    fun hprg hchr hbad hid => ?passes⟩
  case prg => exact construct_of_imageError params d (if_pos hprg)
  case chr => exact construct_of_imageError params d ((if_neg hprg).trans (if_pos hchr))
  case ram =>
    rw [hram] at hbad
    exact construct_of_imageError params d ((if_neg hprg).trans ((if_neg hchr).trans (if_pos hbad)))
  case mapper =>
    rw [hram] at hbad
    exact construct_of_imageError params d
      ((if_neg hprg).trans ((if_neg hchr).trans ((if_neg hbad).trans (if_pos hid))))
  case passes =>
    rw [hram] at hbad
    exact construct_of_no_imageError params d
      ((if_neg hprg).trans ((if_neg hchr).trans ((if_neg hbad).trans (if_neg (not_not.mpr hid)))))

end Sys2Proof.Machine
end
